-- ==== Sys2Proof/Word.lean ====
section
/-! DEFINITION. The two plain value types of the block: a 32-bit word and a bit-string (R7, R8). -/

namespace Sys2Proof

/-- A register or buffer word: 32 bits, bit 0 the least significant (R8). -/
abbrev Word := BitVec 32

/-- A bit-string: index 0 is its leftmost character, `true` is the character '1' (R7). -/
abbrev Bits := List Bool

end Sys2Proof
end

