-- ==== Sys2Proof/Syntax.lean ====
section
/-! DEFINITION. The seven commands of spec/opcode_table.json (R71), and the one command format they are written
in (R70). -/

namespace Sys2Proof

/-- The commands. None has an operand field: operands are implicit (R70, R73). -/
inductive Instr where
  /-- CRC_ENC, word 0x0000_0001 (R103). -/
  | crcEnc
  /-- CRC_VER, word 0x0000_0002 (R104). -/
  | crcVer
  /-- HAM_PCOUNT, word 0x0000_0003 (R133). -/
  | hamPcount
  /-- HAM_ENC, word 0x0000_0004 (R134). -/
  | hamEnc
  /-- STUFF, word 0x0000_0005 (R151). -/
  | stuff
  /-- DESTUFF, word 0x0000_0006 (R153). -/
  | destuff
  /-- CLR, word 0x0000_000F (R170). -/
  | clr
  deriving DecidableEq, Repr

/-- The fields of a command word (R70): OP is bits 3:0 and RSV bits 31:4. -/
structure CommandWord where
  op : BitVec 4
  rsv : BitVec 28
  deriving DecidableEq, Repr

end Sys2Proof
end

