-- ==== Sys2Proof/WellFormed.lean ====
section
/-! DEFINITION. What a well-formed command is. A command has no operand field, so every `Instr` is well formed; the
check that can fail is the one on a command word's two fields (R71, R72). -/

namespace Sys2Proof

/-- The OP values that select a command (R71). -/
def legalOps : List (BitVec 4) := [0x1, 0x2, 0x3, 0x4, 0x5, 0x6, 0xF]

/-- "A word is legal exactly when RSV = 0 and OP is one of these" (R71). -/
def CommandWord.wf (c : CommandWord) : Bool := c.rsv == 0 && legalOps.contains c.op

/-- A command has no immediate and no register number that could be out of range (R70). -/
def Instr.wf : Instr → Bool
  | .crcEnc => true
  | .crcVer => true
  | .hamPcount => true
  | .hamEnc => true
  | .stuff => true
  | .destuff => true
  | .clr => true

end Sys2Proof
end

