-- ==== Sys2Proof/Decode.lean ====
section
/-! DEFINITION. The decoder, total on every 32-bit word and rejecting by name (R70 to R72, R79), and the encoder, both
written from the opcode map of R71. -/

namespace Sys2Proof

/-- Why a word is no legal command. Both completions are ILLEGAL_CMD (R72, R79). -/
inductive DecodeError where
  /-- RSV, bits 31:4, is not zero. -/
  | reservedNotZero
  /-- RSV is zero and OP is 0x0 or 0x7 to 0xE. -/
  | noSuchOp
  deriving DecidableEq, Repr

/-- The fields of a word (R70). -/
def fieldsOf (w : Word) : CommandWord where
  op := w.extractLsb' 0 4
  rsv := w.extractLsb' 4 28

/-- The word with the given fields (R70). -/
def wordOf (c : CommandWord) : Word := c.rsv ++ c.op

/-- The command an OP value selects (R71). -/
def decodeOp (op : BitVec 4) : Except DecodeError Instr :=
  match op.toNat with
  | 0x1 => .ok .crcEnc
  | 0x2 => .ok .crcVer
  | 0x3 => .ok .hamPcount
  | 0x4 => .ok .hamEnc
  | 0x5 => .ok .stuff
  | 0x6 => .ok .destuff
  | 0xF => .ok .clr
  | _ => .error .noSuchOp

/-- Decoding of a command word: the whole word is read, and RSV must be zero (R70, R71, R79). -/
def decode (w : Word) : Except DecodeError Instr :=
  if (fieldsOf w).rsv ≠ 0 then .error .reservedNotZero else decodeOp (fieldsOf w).op

/-- The OP value of a command (R71). -/
def opOf : Instr → BitVec 4
  | .crcEnc => 0x1
  | .crcVer => 0x2
  | .hamPcount => 0x3
  | .hamEnc => 0x4
  | .stuff => 0x5
  | .destuff => 0x6
  | .clr => 0xF

/-- The full word of a command: its OP with RSV = 0 (R71). -/
def encode (i : Instr) : Word := wordOf { op := opOf i, rsv := 0 }

/-- The command read from a table row's bits. A command is one 32-bit bus word, stored in LCMD as it is written: the
bits above `nbits` are zero, and a number with a bit above 31 is no command word. -/
def decodeTableWord (nbits w : Nat) : Option Instr :=
  if w % 2 ^ nbits < 2 ^ 32 then
    match decode (BitVec.ofNat 32 (w % 2 ^ nbits)) with
    | .ok i => some i
    | .error _ => none
  else none

end Sys2Proof
end

