-- ==== Sys2Proof/Config.lean ====
section
/-! DEFINITION. The block's parameters (R6), its hard-wired constants (R21, R35), and the two values the spec
leaves OPEN, `BASE` and `LAT`, as constants without a body: no proof can see what they are. -/

namespace Sys2Proof

/-- DMAX: the most bits of DIN a command reads (R6). -/
def Config.dmax : Nat := 1024

/-- GMAX: the most generator bits (R6). -/
def Config.gmax : Nat := 64

/-- OMAX: the most bits of output (R6). -/
def Config.omax : Nat := 2048

/-- The guard-bit run length of STUFF and DESTUFF (R6). -/
def Config.guardRun : Nat := 5

/-- The window's size in bytes (R50). -/
def Config.windowSize : Nat := 0x1000

/-- ID, hard-wired: PART in bits 31:16, zero in 15:8, REV in 7:0 (R21). -/
def Config.idValue : Word := 0x4C430007#32

/-- CAPD, hard-wired to DMAX (R35). -/
def Config.capd : Word := 0x400#32

/-- CAPG, hard-wired to GMAX (R35). -/
def Config.capg : Word := 0x40#32

/-- CAPO, hard-wired to OMAX (R35). -/
def Config.capo : Word := 0x800#32

/-- Which 4 KiB frame of the host's address space holds the window. OPEN: the platform decides (92 D2; log entry 1). -/
opaque Config.baseFrame : Nat

/-- BASE: the byte address of register offset 0, a multiple of 0x1000 (R6, R50; log entry 1). -/
def Config.base : Nat := 0x1000 * Config.baseFrame

/-- LAT: how many pending host events the engine lets pass before it completes the command of the `n`-th issue.
OPEN per command and per run, any natural number (R6, R76). DESIGN CHOICE: one function for all runs, of the count of
issues only (log entry 2). -/
opaque Config.latency : Nat → Nat

end Sys2Proof
end

