-- ==== Sys2Proof/Machine/Port.lean ====
section
/-! DEFINITION. What the outside world can do to the block, as data: bus accesses, bursts and reset, and the
responses an access gets (R51, R191, R192, R210; 92 D31). -/

namespace Sys2Proof.Machine

/-- What an access asks for. The data of a write that is not 32 bits wide is never looked at (R51). -/
inductive AccessOp where
  | read
  | write (v : Word)
  deriving DecidableEq, Repr

/-- One bus access: a byte address of the host's address space, a width in bits, and what it asks for (R50, R51).
The spec gives no width for addresses, so an address is a natural number (log entry 8). -/
structure Access where
  addr : Nat
  width : Nat
  op : AccessOp
  deriving DecidableEq, Repr

/-- An event at the block's port. -/
inductive HostEvent where
  /-- One access. -/
  | access (a : Access)
  /-- A burst: its beats in order, one access each (R51; log entry 7). -/
  | burst (beats : List Access)
  /-- The reset input. `cutOff` is the access that was cut off by it, if one was; it is not performed (R210). -/
  | reset (cutOff : Option Access)
  deriving DecidableEq, Repr

/-- The bus response of an access. -/
inductive Response where
  /-- A read was performed and returns this word. -/
  | data (v : Word)
  /-- A write was acknowledged; a write dropped while BUSY = 1 gets this too (R192). -/
  | ack
  /-- The access was not a 32-bit access at an aligned offset (R51, R191). -/
  | busError
  deriving DecidableEq, Repr

end Sys2Proof.Machine
end

