-- ==== Sys2Proof/Machine/State.lean ====
section
/-! DEFINITION. The state of the block as plain data, the reasons a step could stop, and the state after reset. -/

namespace Sys2Proof.Machine

/-- Reasons for which the machine stops. There is none: an error is an outcome of a command, recorded in STATUS and
ERRINFO, after which the block stays ready (R180, R194), and a bus error is a response (R191). Closed and empty;
nothing raises a fault, so no claim rests on one (safe). -/
inductive Fault where
  deriving DecidableEq, Repr

/-- Reasons for which a step has no meaning. -/
inductive Refusal where
  /-- Raised by `exec` for a command whose meaning is not written. Every command has its meaning, so nothing raises
  it. Safe: it would stop a run that the block goes on with. -/
  | notModelled (mnemonic : String)
  deriving DecidableEq, Repr

/-- The fields of STATUS (R23). Its reserved bits are hard-wired to zero and have no field. -/
structure Status where
  /-- Bit 0: a command is issued and not completed (R24). -/
  busy : Bool
  /-- Bit 1: the most recently issued command has completed (R25). -/
  done : Bool
  /-- Bit 2: the most recently completed command failed (R26). -/
  err : Bool
  /-- Bit 3: the verify result (R27). -/
  crcOk : Bool
  /-- Bit 4: the sticky collision flag (R28). -/
  coll : Bool
  /-- Bits 11:8: the error code (R29). -/
  errCode : BitVec 4
  deriving DecidableEq, Repr

/-- The whole state: the block's registers, buffers and hidden latch, then four fields of the model's own for the
agents around the engine. ID, CAPD, CAPG and CAPO are constants (Config), and CMD holds nothing (R22). -/
structure State where
  /-- STATUS (R23 to R29). -/
  status : Status
  /-- DLEN (R30). -/
  dlen : Word
  /-- GLEN (R31). -/
  glen : Word
  /-- OLEN (R32). -/
  olen : Word
  /-- AUX (R33). -/
  aux : Word
  /-- ERRINFO (R34). -/
  errInfo : Word
  /-- DIN[0..31] (R36). -/
  din : Vector Word 32
  /-- GEN[0..1] (R37). -/
  gen : Vector Word 2
  /-- REM[0..1] (R38). -/
  rem : Vector Word 2
  /-- DOUT[0..63] (R39). -/
  dout : Vector Word 64
  /-- LCMD, the hidden latch of the issued command word (R41). -/
  lcmd : Word
  /-- The model's own: host events not yet performed, oldest first (R62; log entry 3). -/
  agenda : List HostEvent
  /-- The model's own: the response the bus carries for the last access (log entry 4). -/
  response : Option Response
  /-- The model's own: host events still to pass before the running command completes, R76's LAT (log entry 2). -/
  wait : Nat
  /-- The model's own: how many latencies have been drawn (log entry 2). -/
  draws : Nat
  deriving DecidableEq, Repr

/-- STATUS after reset (R42). -/
def Status.reset : Status :=
  { busy := false, done := false, err := false, crcOk := false, coll := false, errCode := 0 }

/-- The block right after reset: every register, buffer and latch at the value of R42, no host event pending. -/
def State.reset : State :=
  { status := Status.reset
    dlen := 0
    glen := 0
    olen := 0
    aux := 0
    errInfo := 0
    din := Vector.replicate 32 0
    gen := Vector.replicate 2 0
    rem := Vector.replicate 2 0
    dout := Vector.replicate 64 0
    lcmd := 0
    agenda := []
    response := none
    wait := 0
    draws := 0 }

end Sys2Proof.Machine
end

