-- ==== Sys2Proof/Machine/Operands.lean ====
section
/-! DEFINITION. Bit-strings and their packing into buffer words (R7, R53), and the operands a command reads (R54,
R73) with the checks made before it reads them (R183). -/

namespace Sys2Proof.Machine

/-- `val(s)`: the unsigned value of a bit-string, its first character the most significant (R7). -/
def val (s : Bits) : Nat := s.foldl (fun acc b => 2 * acc + b.toNat) 0

/-- `bin(x, w)`: the `w` low bits of `x`, most significant first; `val (bin x w) = x` for `x < 2 ^ w` (R7). -/
def bin (x w : Nat) : Bits := (List.range w).map fun k => x.testBit (w - 1 - k)

/-- `bitlen(x)`: 0 for 0, otherwise the least `b` with `x < 2 ^ b` (R7). -/
def bitlen (x : Nat) : Nat := if x = 0 then 0 else x.log2 + 1

/-- Character `k` of a buffer: bit `31 - (k mod 32)` of word `k div 32` (R53). A command never asks for a character
past the buffer's end (R54); such a character reads as '0'. -/
def bitAt {n : Nat} (b : Vector Word n) (k : Nat) : Bool := (b[k / 32]?.getD 0).getLsbD (31 - k % 32)

/-- `BitsOf(B, len)`: the first `len` characters of a buffer (R53). -/
def bitsOf {n : Nat} (b : Vector Word n) (len : Nat) : Bits := (List.range len).map (bitAt b)

/-- The word whose bit 31 is the first character of `t`, filled with '0' past the end of `t` (R53). -/
def packWord (t : Bits) : Word := BitVec.ofNat 32 (val ((t ++ List.replicate 32 false).take 32))

/-- `Pack(s, N)`: the `n`-word image of a bit-string, zero past its end (R53, R55). -/
def pack (s : Bits) (n : Nat) : Vector Word n := Vector.ofFn fun i => packWord (s.drop (32 * i.val))

/-- `BitsOf(DIN, DLEN)`, the dataword, received codeword or stream (R36, R54). -/
def dataBits (s : State) : Bits := bitsOf s.din s.dlen.toNat

/-- `BitsOf(GEN, GLEN)`, the generator (R37, R54, R100). -/
def genBits (s : State) : Bits := bitsOf s.gen s.glen.toNat

/-- The errors a command can raise (R181). NON_BINARY_CHARACTER, code 4, is never raised (R187). -/
inductive ErrorCode where
  | illegalCmd
  | invalidGenLength
  | emptyDataword
  | overflow
  | genLeadingZero
  | stuffViolation
  deriving DecidableEq, Repr

/-- What `raise Error(code, info)` carries (R9, R182). -/
structure CmdError where
  code : ErrorCode
  info : Word
  deriving DecidableEq, Repr

/-- A length or count as it is stored in a 32-bit register (R8). -/
def lengthWord (n : Nat) : Word := BitVec.ofNat 32 n

/-- The check every data command makes on DLEN: above DMAX is OVERFLOW with ERRINFO = DLEN (R183, R188). -/
def dataLengthError (s : State) : Option CmdError :=
  if s.dlen.toNat > Config.dmax then some ⟨.overflow, s.dlen⟩ else none

/-- The input checks of CRC_ENC and CRC_VER, in order (R183 checks 2 to 6; R185, R186, R188, R189). -/
def crcInputError (s : State) : Option CmdError :=
  if s.glen = 0 then some ⟨.invalidGenLength, 0⟩
  else if s.dlen.toNat > Config.dmax then some ⟨.overflow, s.dlen⟩
  else if s.glen.toNat > Config.gmax then some ⟨.overflow, s.glen⟩
  else if s.dlen = 0 then some ⟨.emptyDataword, 0⟩
  else if bitAt s.gen 0 = false then some ⟨.genLeadingZero, 0⟩
  else none

/-- The check on a result's length: above OMAX is OVERFLOW with ERRINFO = that length (R183, R188). -/
def outputLengthError (n : Nat) : Option CmdError :=
  if n > Config.omax then some ⟨.overflow, lengthWord n⟩ else none

end Sys2Proof.Machine
end

