-- ==== Sys2Proof/Machine/Flags.lean ====
section
/-! DEFINITION. STATUS: its word as a read returns it, the error codes, and its value after issue, completion, error
completion and CLR (R23 to R29, R74, R75, R170, R181, R182). -/

namespace Sys2Proof.Machine

/-- The number of an error (R181). -/
def errorNumber : ErrorCode → BitVec 4
  | .illegalCmd => 1
  | .invalidGenLength => 2
  | .emptyDataword => 3
  | .overflow => 5
  | .genLeadingZero => 6
  | .stuffViolation => 7

/-- STATUS as a word: ERRCODE in bits 11:8, COLL, CRC_OK, ERR, DONE and BUSY in bits 4 to 0, every other bit 0
(R23). -/
def statusWord (st : Status) : Word :=
  (0#20 ++ st.errCode ++ 0#3 ++ BitVec.ofBool st.coll ++ BitVec.ofBool st.crcOk ++ BitVec.ofBool st.err
    ++ BitVec.ofBool st.done ++ BitVec.ofBool st.busy : BitVec 32)

/-- STATUS after an issue: only BUSY is set (R74). -/
def statusIssued : Status :=
  { busy := true, done := false, err := false, crcOk := false, coll := false, errCode := 0 }

/-- STATUS after `Complete()`: DONE set, BUSY cleared, the rest as it was (R75). -/
def statusCompleted (st : Status) : Status := { st with done := true, busy := false }

/-- STATUS after an error completion: ERR, ERRCODE and DONE set, BUSY cleared, CRC_OK and COLL as they were (R182). -/
def statusFailed (c : ErrorCode) (st : Status) : Status :=
  { st with err := true, errCode := errorNumber c, done := true, busy := false }

/-- STATUS with CRC_OK written (R104). -/
def statusWithCrcOk (ok : Bool) (st : Status) : Status := { st with crcOk := ok }

/-- STATUS after a dropped write: only COLL is set (R77). -/
def statusCollided (st : Status) : Status := { st with coll := true }

/-- STATUS as CLR leaves it before `Complete()`: ERR, CRC_OK, ERRCODE and COLL cleared (R170). -/
def statusCleared (st : Status) : Status :=
  { st with err := false, crcOk := false, errCode := 0, coll := false }

end Sys2Proof.Machine
end

