-- ==== Sys2Proof/Machine/Ops.lean ====
section
/-! DEFINITION. The operations over the registers that the commands and the bus share: issue, the two completions,
the output writes, the register clear of CLR, and reset. An error is the block's one kind of exception:
`errorComplete` takes it. There is no return from one (R194): the error state stays until the next issue, CLR or
reset. -/

namespace Sys2Proof.Machine

/-- Issue of a command word by a CMD write accepted while BUSY = 0 (R74): the word is latched, the result state
cleared and BUSY set; the input state is unchanged. The running command's latency is drawn here. DESIGN CHOICE: R76
leaves LAT open per command and per run, and the model draws it from the count of issues alone, so that the issues with
the same count have one latency in every run, whatever the command word and its operands (log entry 2). -/
def issue (v : Word) (s : State) : State :=
  { s with
    lcmd := v
    olen := 0
    aux := 0
    errInfo := 0
    rem := Vector.replicate 2 0
    dout := Vector.replicate 64 0
    status := statusIssued
    wait := Config.latency s.draws
    draws := s.draws + 1 }

/-- `Complete()`, the successful end of a command (R75). -/
def complete (s : State) : State := { s with status := statusCompleted s.status }

/-- `ErrorComplete(code, info)` (R182): STATUS and ERRINFO record the error, and nothing else changes. -/
def errorComplete (e : CmdError) (s : State) : State :=
  { s with status := statusFailed e.code s.status, errInfo := e.info }

/-- The end of a command whose body gives the state with its outputs assigned, or raises an error; on an error none
of its outputs take effect (R9, R75, R182). -/
def finish (s : State) (body : Except CmdError State) : Host.Outcome State Fault Refusal :=
  match body with
  | .ok t => .next (complete t)
  | .error e => .next (errorComplete e s)

/-- `DOUT <- Pack(out, 64); OLEN <- len(out)` (R39, R55). -/
def writeDout (out : Bits) (s : State) : State :=
  { s with dout := pack out 64, olen := lengthWord out.length }

/-- `REM <- Pack(rem, 2)` (R38, R55). -/
def writeRem (r : Bits) (s : State) : State := { s with rem := pack r 2 }

/-- `AUX <- n` (R33). -/
def writeAux (n : Nat) (s : State) : State := { s with aux := lengthWord n }

/-- `STATUS.CRC_OK <- ok` (R27, R104). -/
def writeCrcOk (ok : Bool) (s : State) : State := { s with status := statusWithCrcOk ok s.status }

/-- The assignments of CLR before its `Complete()` (R170). -/
def clearRegisters (s : State) : State :=
  { s with
    dlen := 0
    glen := 0
    din := Vector.replicate 32 0
    gen := Vector.replicate 2 0
    olen := 0
    aux := 0
    errInfo := 0
    rem := Vector.replicate 2 0
    dout := Vector.replicate 64 0
    status := statusCleared s.status
    lcmd := 0 }

/-- The reset input arrives (R210): every register, buffer and latch takes its reset value and a running command is
abandoned. What the host has still to do, and the count of drawn latencies, are not the block's and stay (log
entry 9). -/
def resetBlock (s : State) : State := { State.reset with agenda := s.agenda, draws := s.draws }

end Sys2Proof.Machine
end

