-- ==== Sys2Proof/Machine/Bus.lean ====
section
/-! DEFINITION. The register window (R20, R60) and the host's accesses to it (R50 to R59, R77, R78, R191, R192). -/

namespace Sys2Proof.Machine

/-- A defined word of the window (R20). -/
inductive WinReg where
  | id
  | cmd
  | status
  | dlen
  | glen
  | olen
  | aux
  | errInfo
  | capd
  | capg
  | capo
  | din (i : Fin 32)
  | gen (i : Fin 2)
  | rem (i : Fin 2)
  | dout (i : Fin 64)
  deriving DecidableEq, Repr

/-- The byte offset of a defined word (R20). -/
def offsetOf : WinReg → Nat
  | .id => 0x000
  | .cmd => 0x004
  | .status => 0x008
  | .dlen => 0x00C
  | .glen => 0x010
  | .olen => 0x014
  | .aux => 0x018
  | .errInfo => 0x01C
  | .capd => 0x020
  | .capg => 0x024
  | .capo => 0x028
  | .din i => 0x100 + 4 * i.val
  | .gen i => 0x180 + 4 * i.val
  | .rem i => 0x190 + 4 * i.val
  | .dout i => 0x200 + 4 * i.val

/-- The defined word at an aligned offset, or none where the offset is reserved (R20, R60). -/
def regAt (off : Nat) : Option WinReg :=
  if off = 0x000 then some .id
  else if off = 0x004 then some .cmd
  else if off = 0x008 then some .status
  else if off = 0x00C then some .dlen
  else if off = 0x010 then some .glen
  else if off = 0x014 then some .olen
  else if off = 0x018 then some .aux
  else if off = 0x01C then some .errInfo
  else if off = 0x020 then some .capd
  else if off = 0x024 then some .capg
  else if off = 0x028 then some .capo
  else if h : 0x100 ≤ off ∧ off < 0x180 then some (.din ⟨(off - 0x100) / 4, by omega⟩)
  else if h : 0x180 ≤ off ∧ off < 0x188 then some (.gen ⟨(off - 0x180) / 4, by omega⟩)
  else if h : 0x190 ≤ off ∧ off < 0x198 then some (.rem ⟨(off - 0x190) / 4, by omega⟩)
  else if h : 0x200 ≤ off ∧ off < 0x300 then some (.dout ⟨(off - 0x200) / 4, by omega⟩)
  else none

/-- What a read of a defined word returns (R20, R21, R22, R35). -/
def readReg (s : State) : WinReg → Word
  | .id => Config.idValue
  | .cmd => 0
  | .status => statusWord s.status
  | .dlen => s.dlen
  | .glen => s.glen
  | .olen => s.olen
  | .aux => s.aux
  | .errInfo => s.errInfo
  | .capd => Config.capd
  | .capg => Config.capg
  | .capo => Config.capo
  | .din i => s.din[i]
  | .gen i => s.gen[i]
  | .rem i => s.rem[i]
  | .dout i => s.dout[i]

/-- A write of a defined word while BUSY = 0: RW words store all 32 bits, CMD issues, RO words ignore it (R57). -/
def writeReg (s : State) (v : Word) : WinReg → State
  | .cmd => issue v s
  | .dlen => { s with dlen := v }
  | .glen => { s with glen := v }
  | .din i => { s with din := s.din.set i v }
  | .gen i => { s with gen := s.gen.set i v }
  | .id => s
  | .status => s
  | .olen => s
  | .aux => s
  | .errInfo => s
  | .capd => s
  | .capg => s
  | .capo => s
  | .rem _ => s
  | .dout _ => s

/-- `MemRead(BASE + off, 4)` at an aligned offset: reserved offsets read as zero (R51, R56, R78). -/
def readOffset (s : State) (off : Nat) : Word :=
  match regAt off with
  | some r => readReg s r
  | none => 0

/-- `MemWrite(BASE + off, 4, v)` at an aligned offset: while BUSY = 1 it is dropped and sets COLL, to any offset;
otherwise a reserved offset ignores it (R51, R56, R57, R77). -/
def writeOffset (s : State) (off : Nat) (v : Word) : State :=
  if s.status.busy then { s with status := statusCollided s.status }
  else
    match regAt off with
    | some r => writeReg s v r
    | none => s

/-- Byte lane `i` of the word at `off`: bits `8i+7 : 8i`, little-endian (R52). No access reads a single lane (R51). -/
def byteLane (s : State) (off i : Nat) : BitVec 8 := (readOffset s off).extractLsb' (8 * i) 8

/-- The address is inside the window (R50). -/
def inWindow (addr : Nat) : Bool := Config.base ≤ addr && addr < Config.base + Config.windowSize

/-- The offset an address inside the window reaches (R50). -/
def windowOffset (addr : Nat) : Nat := addr - Config.base

/-- The block takes only 32-bit accesses at a 4-byte-aligned offset (R51). -/
def accessTaken (a : Access) : Bool := a.width == 32 && windowOffset a.addr % 4 == 0

/-- One host access, indivisible (R51, R59, R62): its response, and its effect on the block. An access outside the
window is not the block's and gets no response from it (R50; log entry 6); one that the block does not take gets a
bus error and changes nothing (R191). -/
def performAccess (a : Access) (s : State) : State :=
  if !inWindow a.addr then { s with response := none }
  else if !accessTaken a then { s with response := some .busError }
  else
    match a.op with
    | .read => { s with response := some (.data (readOffset s (windowOffset a.addr))) }
    | .write v => { writeOffset s (windowOffset a.addr) v with response := some .ack }

/-- A burst's next beat. A burst of 32-bit beats is performed as one access per beat, in order; any other burst gets
one bus error (R51; log entry 7). The beats still to come go back to the head of the agenda. -/
def performBurst (beats : List Access) (s : State) : State :=
  if beats.all (fun b => b.width == 32) then
    match beats with
    | [] => s
    | [b] => performAccess b s
    | b :: rest => performAccess b { s with agenda := .burst rest :: s.agenda }
  else if beats.any (fun b => inWindow b.addr) then { s with response := some .busError }
  else { s with response := none }

/-- One event at the port (R62, R210). -/
def performEvent (e : HostEvent) (s : State) : State :=
  match e with
  | .access a => performAccess a s
  | .burst beats => performBurst beats s
  | .reset _ => resetBlock s

/-- The oldest pending host event is performed. With none pending, nothing happens: the block is idle and needs
nothing to wake it (R58, R197; log entry 5). -/
def hostStep (s : State) : State :=
  match s.agenda with
  | [] => s
  | e :: rest => performEvent e { s with agenda := rest, wait := s.wait - 1 }

end Sys2Proof.Machine
end

