-- ==== Sys2Proof/Machine/Control.lean ====
section
/-! DEFINITION. The control family: CLR (R170), and the completion of an illegal command word (R171). -/

namespace Sys2Proof.Machine

/-- CLR, the soft reset (R170): it raises no error. -/
def execClr (s : State) : Host.Outcome State Fault Refusal := finish s (.ok (clearRegisters s))

/-- The completion of a word that is no legal command: `raise Error(ILLEGAL_CMD, w)` (R79, R171, R184). -/
def execIllegal (w : Word) (s : State) : Host.Outcome State Fault Refusal :=
  finish s (.error ⟨.illegalCmd, w⟩)

end Sys2Proof.Machine
end

