-- ==== Sys2Proof/Machine/Crc.lean ====
section
/-! DEFINITION. The CRC family: the mod-2 divider (R101), CRC_ENC (R103) and CRC_VER (R104). -/

namespace Sys2Proof.Machine

/-- The passes of `ModDiv`, at most `fuel` of them: XOR the generator, its leading 1 aligned with the dividend's,
while the dividend is at least as long (R101). -/
def modDivPasses : Nat → Nat → Nat → Nat
  | 0, d, _ => d
  | fuel + 1, d, g =>
    if bitlen d ≥ bitlen g then modDivPasses fuel (d ^^^ (g <<< (bitlen d - bitlen g))) g else d

/-- `ModDiv(D, G)` for `G ≥ 1` (R101). Each pass shortens the dividend, so `bitlen D` passes are enough. -/
def modDiv (d g : Nat) : Nat := modDivPasses (bitlen d) d g

/-- The remainder string of CRC_ENC: the dataword with `GLEN - 1` zeros appended, divided (R103). -/
def crcEncodeRem (d g : Bits) : Bits :=
  bin (modDiv (val d <<< (g.length - 1)) (val g)) (g.length - 1)

/-- The remainder of CRC_VER, as a number: the received word divided as it is (R104). -/
def crcVerifyRem (c g : Bits) : Nat := modDiv (val c) (val g)

/-- The body of CRC_ENC (R103). -/
def crcEncode (s : State) : Except CmdError State :=
  match crcInputError s with
  | some e => .error e
  | none =>
    match outputLengthError (s.dlen.toNat + s.glen.toNat - 1) with
    | some e => .error e
    | none =>
      let r := crcEncodeRem (dataBits s) (genBits s)
      .ok (writeAux (s.glen.toNat - 1) (writeRem r (writeDout (dataBits s ++ r) s)))

/-- The body of CRC_VER (R104): it writes no DOUT and no OLEN. -/
def crcVerify (s : State) : Except CmdError State :=
  match crcInputError s with
  | some e => .error e
  | none =>
    let r := crcVerifyRem (dataBits s) (genBits s)
    .ok (writeCrcOk (r == 0) (writeAux (s.glen.toNat - 1) (writeRem (bin r (s.glen.toNat - 1)) s)))

/-- CRC_ENC (R103). -/
def execCrcEnc (s : State) : Host.Outcome State Fault Refusal := finish s (crcEncode s)

/-- CRC_VER (R104). -/
def execCrcVer (s : State) : Host.Outcome State Fault Refusal := finish s (crcVerify s)

end Sys2Proof.Machine
end

