-- ==== Sys2Proof/Machine/Hamming.lean ====
section
/-! DEFINITION. The Hamming family: the parity count (R130), the layout and parity of the position buffer (R131, R132),
HAM_PCOUNT (R133) and HAM_ENC (R134). -/

namespace Sys2Proof.Machine

/-- The loop of `ParityCount` from `r` on, at most `fuel` increments (R130). -/
def parityCountFrom : Nat → Nat → Nat → Nat
  | 0, _, r => r
  | fuel + 1, m, r => if 2 ^ r < m + r + 1 then parityCountFrom fuel m (r + 1) else r

/-- `ParityCount(m)`, the least `r` with `2 ^ r ≥ m + r + 1` (R130); `m + 1` increments are always enough. -/
def parityCount (m : Nat) : Nat := parityCountFrom (m + 1) m 0

/-- `isPow2(i)`: `i` is `2 ^ j` for some `j` (R10). -/
def isPow2 (i : Nat) : Bool := 2 ^ i.log2 == i

/-- Positions `pos`, `pos + 1`, … of the buffer P, `count` of them: a placeholder zero at a power of two, the next bit
of `e` elsewhere (R134 step 3). -/
def layoutFrom : Nat → Nat → Bits → Bits
  | 0, _, _ => []
  | count + 1, pos, e =>
    if isPow2 pos then false :: layoutFrom count (pos + 1) e
    else e.headD false :: layoutFrom count (pos + 1) e.tail

/-- `Parity(P, p, n)` with `n` the length of P: the XOR over the positions `i ≠ p` with `i AND p ≠ 0` (R132). Positions
are 1-indexed, so P's list index 0 is position 1 (R10). -/
def parity (buf : Bits) (p : Nat) : Bool :=
  (buf.zipIdx 1).foldl (fun acc q => if q.2 ≠ p ∧ q.2 &&& p ≠ 0 then acc ^^ q.1 else acc) false

/-- `P[2 ^ k] <- Parity(P, 2 ^ k, n)` (R134 step 4). -/
def setParity (buf : Bits) (k : Nat) : Bits := buf.set (2 ^ k - 1) (parity buf (2 ^ k))

/-- The position buffer P of a dataword: lay out the reversed dataword, then the parity bits in order (R134 steps 1
to 4). -/
def hammingBuffer (d : Bits) : Bits :=
  (List.range (parityCount d.length)).foldl setParity
    (layoutFrom (d.length + parityCount d.length) 1 d.reverse)

/-- The Hamming codeword: the buffer from its last position to its first (R134 step 5). -/
def hammingCode (d : Bits) : Bits := (hammingBuffer d).reverse

/-- The body of HAM_PCOUNT (R133): DIN is not read. -/
def hammingCount (s : State) : Except CmdError State :=
  match dataLengthError s with
  | some e => .error e
  | none => .ok (writeAux (parityCount s.dlen.toNat) s)

/-- The body of HAM_ENC (R134). -/
def hammingEncode (s : State) : Except CmdError State :=
  match dataLengthError s with
  | some e => .error e
  | none =>
    match outputLengthError (s.dlen.toNat + parityCount s.dlen.toNat) with
    | some e => .error e
    | none => .ok (writeAux (parityCount s.dlen.toNat) (writeDout (hammingCode (dataBits s)) s))

/-- HAM_PCOUNT (R133). -/
def execHamPcount (s : State) : Host.Outcome State Fault Refusal := finish s (hammingCount s)

/-- HAM_ENC (R134). -/
def execHamEnc (s : State) : Host.Outcome State Fault Refusal := finish s (hammingEncode s)

end Sys2Proof.Machine
end

