-- ==== Sys2Proof/Machine/Stuffing.lean ====
section
/-! DEFINITION. The bit-stuffing family: the stuffing machine (R150), STUFF (R151) and DESTUFF (R153). -/

namespace Sys2Proof.Machine

/-- The scratch of the stuffing machine, alive within one command only (R41, R150): the run counter `c` and the gate
flag `f`. -/
structure StuffScratch where
  run : Nat
  gate : Bool
  deriving DecidableEq, Repr

/-- The scratch at the start of a command: `c = 0`, `f = 1` (R150). -/
def stuffStart : StuffScratch := { run := 0, gate := true }

/-- `StepOrig(b)` on the scratch (R150). -/
def stepOrig (b : Bool) (m : StuffScratch) : StuffScratch :=
  if b then { m with run := m.run + 1 } else { run := 0, gate := true }

/-- `guard_due` (R150). -/
def guardDue (m : StuffScratch) : Bool := m.run == Config.guardRun && m.gate

/-- `Guard()`: the scratch after a guard bit is inserted or deleted (R150). -/
def stuffGuarded : StuffScratch := { run := 0, gate := false }

/-- The loop of STUFF over the remaining stream: the output and the number of guards inserted (R151). -/
def stuffFrom : StuffScratch → Bits → Bits × Nat
  | _, [] => ([], 0)
  | m, b :: rest =>
    if guardDue (stepOrig b m) then
      let r := stuffFrom stuffGuarded rest
      (b :: false :: r.1, r.2 + 1)
    else
      let r := stuffFrom (stepOrig b m) rest
      (b :: r.1, r.2)

/-- STUFF's output and guard count for a stream (R151). -/
def stuffBits (x : Bits) : Bits × Nat := stuffFrom stuffStart x

/-- The loop of DESTUFF over the remaining stream, whose first bit has index `t`: the output and the number of guards
removed, or the index that STUFF_VIOLATION reports; at the end of the stream `t` is DLEN (R153). -/
def destuffFrom : Bool → StuffScratch → Nat → Bits → Except Nat (Bits × Nat)
  | pend, _, t, [] => if pend then .error t else .ok ([], 0)
  | true, _, t, b :: rest =>
    if b then .error t
    else
      match destuffFrom false stuffGuarded (t + 1) rest with
      | .error e => .error e
      | .ok r => .ok (r.1, r.2 + 1)
  | false, m, t, b :: rest =>
    match destuffFrom (guardDue (stepOrig b m)) (stepOrig b m) (t + 1) rest with
    | .error e => .error e
    | .ok r => .ok (b :: r.1, r.2)

/-- DESTUFF's output and guard count for a stream, or the index of its first violation (R153). -/
def destuffBits (y : Bits) : Except Nat (Bits × Nat) := destuffFrom false stuffStart 0 y

/-- The body of STUFF (R151). -/
def stuffBody (s : State) : Except CmdError State :=
  match dataLengthError s with
  | some e => .error e
  | none =>
    let r := stuffBits (dataBits s)
    match outputLengthError r.1.length with
    | some e => .error e
    | none => .ok (writeAux r.2 (writeDout r.1 s))

/-- The body of DESTUFF (R153). -/
def destuffBody (s : State) : Except CmdError State :=
  match dataLengthError s with
  | some e => .error e
  | none =>
    match destuffBits (dataBits s) with
    | .error t => .error ⟨.stuffViolation, lengthWord t⟩
    | .ok r => .ok (writeAux r.2 (writeDout r.1 s))

/-- STUFF (R151). -/
def execStuff (s : State) : Host.Outcome State Fault Refusal := finish s (stuffBody s)

/-- DESTUFF (R153). -/
def execDestuff (s : State) : Host.Outcome State Fault Refusal := finish s (destuffBody s)

end Sys2Proof.Machine
end

