-- ==== Sys2Proof/Machine/Dispatch.lean ====
section
/-! DEFINITION. The dispatch of R79 over the legal commands: one arm per constructor of `Instr`. -/

namespace Sys2Proof.Machine

/-- The whole of a legal command, its completion included (R75, R79). -/
def exec (i : Instr) (s : State) : Host.Outcome State Fault Refusal :=
  match i with
  | .crcEnc => Sys2Proof.Machine.execCrcEnc s
  | .crcVer => Sys2Proof.Machine.execCrcVer s
  | .hamPcount => Sys2Proof.Machine.execHamPcount s
  | .hamEnc => Sys2Proof.Machine.execHamEnc s
  | .stuff => Sys2Proof.Machine.execStuff s
  | .destuff => Sys2Proof.Machine.execDestuff s
  | .clr => Sys2Proof.Machine.execClr s

end Sys2Proof.Machine
end

