-- ==== Sys2Proof/Machine/Engine.lean ====
section
/-! DEFINITION. The engine: `Execute` (R79), its completion step (R75), and whose turn it is (R62, R76). -/

namespace Sys2Proof.Machine

/-- `Execute(w)` (R79): a legal word runs its command, any other completes with ILLEGAL_CMD. -/
def execute (w : Word) (s : State) : Host.Outcome State Fault Refusal :=
  match decode w with
  | .ok i => exec i s
  | .error _ => execIllegal w s

/-- `EngineStep()`: the word in LCMD is fetched and the whole command performed (R75). -/
def engineStep (s : State) : Host.Outcome State Fault Refusal := execute s.lcmd s

/-- The engine moves next: it is enabled (BUSY = 1), and either its latency is over or the host has nothing pending.
This is where LAT acts, and what makes every command complete (R75, R76; log entry 2). -/
def engineTurn (s : State) : Bool := s.status.busy && (s.wait == 0 || s.agenda.isEmpty)

end Sys2Proof.Machine
end

