-- ==== Sys2Proof/Machine/Step.lean ====
section
/-! DEFINITION. One step of the machine: one completion step of the engine, or one host event (R62). -/

namespace Sys2Proof.Machine

/-- One step: the engine's completion step when it is its turn, otherwise the host's next event. -/
def step (s : State) : Host.Outcome State Fault Refusal :=
  if engineTurn s then engineStep s else .next (hostStep s)

/-- The state in which the word `w` (its bits above `nbits` zero) has just been issued and the engine moves next. LCMD
is where the engine fetches from; an issue is the only way into it (R74), so the issue stands for the load, and the
latency is set to nothing left so that the very next step is the completion (log entry 3). -/
def State.withFetchWord (s : State) (nbits w : Nat) : State :=
  { issue (BitVec.ofNat 32 (w % 2 ^ nbits)) s with wait := 0 }

end Sys2Proof.Machine
end

