-- ==== Sys2Proof/Machine/HostProgram.lean ====
section
/-! DEFINITION. The host's side of the bus, as the spec writes it: the primitive accesses of R9, the program notation of
R81, its pseudo-instructions with their expansions (R82), the encoding of a program as its bus transactions (R83), and
what a program does when its accesses reach the block one at a time (R62). The host's temporaries are host state and
no part of `State` (R81; log entry 10). -/

namespace Sys2Proof.Machine

/-- `MemRead(addr, 4)` (R9). -/
def memRead (addr : Nat) : Access := { addr := addr, width := 32, op := .read }

/-- `MemWrite(addr, 4, v)` (R9). -/
def memWrite (addr : Nat) (v : Word) : Access := { addr := addr, width := 32, op := .write v }

/-- A `<reg>` of the notation: a register's name, or an offset such as `@0x104` (R81). -/
inductive HostReg where
  | named (r : WinReg)
  | offset (off : Nat)
  deriving DecidableEq, Repr

/-- The offset of a `<reg>` (R20, R81). -/
def hostRegOffset : HostReg → Nat
  | .named r => offsetOf r
  | .offset off => off

/-- A `<value>` of the notation: a number or a host temporary (R81). Temporaries are numbered. -/
inductive HostValue where
  | lit (v : Word)
  | temp (t : Nat)
  deriving DecidableEq, Repr

/-- The primitive lines of a program (R81). `claimBit` is the part of `WAIT` that looks at a temporary and touches no
bus (R82). -/
inductive HostPrim where
  | wr (r : HostReg) (v : HostValue)
  | rd (r : HostReg) (t : Nat)
  | check (r : HostReg) (v : HostValue)
  | claimBit (t bit : Nat) (b : Bool)
  deriving DecidableEq, Repr

/-- A buffer named in `COPY` and `LOADBITS` (R82). -/
inductive HostBuffer where
  | din
  | gen
  | rem
  | dout
  deriving DecidableEq, Repr

/-- Word `i` of a buffer, by its offset (R20). DESIGN CHOICE: past the buffer's last word, where R20 names no register
and R82 gives no limit, the offset goes on by words, so that word 32 of DIN is at GEN[0]'s offset (log entry 15). -/
def bufferWord (b : HostBuffer) (i : Nat) : HostReg :=
  match b with
  | .din => .offset (0x100 + 4 * i)
  | .gen => .offset (0x180 + 4 * i)
  | .rem => .offset (0x190 + 4 * i)
  | .dout => .offset (0x200 + 4 * i)

/-- A line of a program: a primitive or a pseudo-instruction (R81, R82). `POLL`, `WAIT` and `COPY` name the temporary
they use; `COPY` uses `n` temporaries from `t` on. -/
inductive HostLine where
  | prim (p : HostPrim)
  | issue (i : Instr)
  | poll (t : Nat)
  | wait (t : Nat)
  | copy (src dst : HostBuffer) (n t : Nat)
  | loadbits (buf : HostBuffer) (bits : Bits)
  deriving DecidableEq, Repr

/-- The word that `LOADBITS` writes to word `i` of a buffer (R53, R82). -/
def loadWord (bits : Bits) (i : Nat) : Word := packWord (bits.drop (32 * i))

/-- The expansion of a line (R82). `COPY` and `LOADBITS` longer than their buffer go on past it (log entry 15).
A `POLL` reads STATUS once and `extra` times more; how often depends on the latency (R83). -/
def expandLine (extra : Nat) : HostLine → List HostPrim
  | .prim p => [p]
  | .issue i => [.wr (.named .cmd) (.lit (encode i))]
  | .poll t => List.replicate (extra + 1) (.rd (.named .status) t)
  | .wait t =>
    List.replicate (extra + 1) (.rd (.named .status) t) ++ [.claimBit t 4 false, .claimBit t 1 true]
  | .copy src dst n t =>
    (List.range n).flatMap fun i =>
      [.rd (bufferWord src i) (t + i), .wr (bufferWord dst i) (.temp (t + i))]
  | .loadbits buf bits =>
    (List.range ((bits.length + 31) / 32)).map fun i => .wr (bufferWord buf i) (.lit (loadWord bits i))

/-- A bus transaction of a program's encoding: R or W, the offset, and the value read or written (R83). Which accesses
that the block does not serve stand in the encoding is the model's choice (log entry 16). -/
structure Transaction where
  isWrite : Bool
  offset : Nat
  value : Word
  deriving DecidableEq, Repr

/-- A program at work: the block, the host's temporaries (newest value first), whether every claim so far held, and
the bus transactions so far (R81, R83). -/
structure HostRun where
  block : State
  temps : List (Nat × Word)
  claims : Bool
  log : List Transaction
  deriving DecidableEq, Repr

/-- The value of a temporary; one that was never read into is 0 (log entry 10). -/
def tempValue (h : HostRun) (t : Nat) : Word := (h.temps.lookup t).getD 0

/-- A `<value>` evaluated (R81). -/
def hostValue (h : HostRun) : HostValue → Word
  | .lit v => v
  | .temp t => tempValue h t

/-- Steps of the block until the pending events are gone, at most `fuel`. -/
def drain : Nat → State → State
  | 0, s => s
  | fuel + 1, s =>
    if s.agenda.isEmpty then s
    else
      match step s with
      | .next t => drain fuel t
      | .fault _ => s
      | .refused _ => s

/-- The block after one access: the engine completes before it or not, as its latency has it, so two steps are
enough. -/
def submit (a : Access) (s : State) : State := drain 2 { s with agenda := [.access a] }

/-- The word a read has returned; a read answered with a bus error returns no data (R51). -/
def readData (s : State) : Option Word :=
  match s.response with
  | some (.data v) => some v
  | _ => none

/-- One primitive line (R81). DESIGN CHOICE: a claim on a read that returned no data fails (log entry 10), and such a
read, answered with a bus error or outside the window, has no value and is left out of the log, while a write is kept
with its value whatever its response, the bus error and the window's outside included (log entry 16). -/
def runPrim (p : HostPrim) (h : HostRun) : HostRun :=
  match p with
  | .wr r v =>
    let a := memWrite (Config.base + hostRegOffset r) (hostValue h v)
    { h with block := submit a h.block, log := h.log ++ [⟨true, hostRegOffset r, hostValue h v⟩] }
  | .rd r t =>
    let b := submit (memRead (Config.base + hostRegOffset r)) h.block
    match readData b with
    | some v => { h with block := b, temps := (t, v) :: h.temps, log := h.log ++ [⟨false, hostRegOffset r, v⟩] }
    | none => { h with block := b }
  | .check r v =>
    let b := submit (memRead (Config.base + hostRegOffset r)) h.block
    match readData b with
    | some w =>
      { h with block := b, claims := h.claims && w == hostValue h v, log := h.log ++ [⟨false, hostRegOffset r, w⟩] }
    | none => { h with block := b, claims := false }
  | .claimBit t bit b => { h with claims := h.claims && (tempValue h t).getLsbD bit == b }

/-- Primitive lines in order. -/
def runPrims (ps : List HostPrim) (h : HostRun) : HostRun := ps.foldl (fun g p => runPrim p g) h

/-- `POLL`: read STATUS until BUSY = 0 (R82). Every read uses up one event of the block's latency, so `wait + 1` reads
are enough. -/
def pollLoop : Nat → Nat → HostRun → HostRun
  | 0, _, h => h
  | fuel + 1, t, h =>
    let g := runPrim (.rd (.named .status) t) h
    if (tempValue g t).getLsbD 0 then pollLoop fuel t g else g

/-- One line of a program (R81, R82). -/
def runLine (l : HostLine) (h : HostRun) : HostRun :=
  match l with
  | .poll t => pollLoop (h.block.wait + 1) t h
  | .wait t => runPrims [.claimBit t 4 false, .claimBit t 1 true] (pollLoop (h.block.wait + 1) t h)
  | .prim p => runPrims (expandLine 0 (.prim p)) h
  | .issue i => runPrims (expandLine 0 (.issue i)) h
  | .copy src dst n t => runPrims (expandLine 0 (.copy src dst n t)) h
  | .loadbits buf bits => runPrims (expandLine 0 (.loadbits buf bits)) h

/-- A program from a state of the block, with no temporary set and every claim still true. -/
def runProgram (prog : List HostLine) (s : State) : HostRun :=
  prog.foldl (fun h l => runLine l h) { block := s, temps := [], claims := true, log := [] }

/-- The encoding of a program's run: its bus transactions in order (R83). -/
def encodeRun (prog : List HostLine) (s : State) : List Transaction := (runProgram prog s).log

end Sys2Proof.Machine
end

