-- ==== Sys2Proof/Safety.lean ====
section
/-! DEFINITION. The terms claims use: the invariant of the block, the conditions under which a command succeeds, which
error a command reports, what two states have in common, and independent readings of the codecs (run positions,
polynomial product) to hold the meanings against. -/

namespace Sys2Proof.Machine

/-- The outputs hold the zeros that issue wrote (R74). -/
def OutputsClear (s : State) : Prop :=
  s.olen = 0 ∧ s.aux = 0 ∧ s.rem = Vector.replicate 2 0 ∧ s.dout = Vector.replicate 64 0

/-- The whole result state holds what issue wrote (R40, R74). -/
def ResultsClear (s : State) : Prop :=
  OutputsClear s ∧ s.errInfo = 0 ∧ s.status.done = false ∧ s.status.err = false ∧ s.status.crcOk = false
    ∧ s.status.errCode = 0

/-- What holds of the block in every state it can reach. -/
structure Inv (s : State) : Prop where
  /-- "ERR = 1 exactly when ERRCODE ≠ 0" (R26). -/
  err_iff : s.status.err = true ↔ s.status.errCode ≠ 0
  /-- The legal values of ERRCODE (R29). -/
  code_legal : s.status.errCode ∈ ([0, 1, 2, 3, 5, 6, 7] : List (BitVec 4))
  /-- While a command runs the result state is clear (R74, R78). -/
  busy_clear : s.status.busy = true → ResultsClear s
  /-- After a failure the outputs and CRC_OK are clear (R182). -/
  failed_clear : s.status.err = true → OutputsClear s ∧ s.status.crcOk = false
  /-- ERRINFO is 0 unless the last command failed (R34). -/
  info_clear : s.status.err = false → s.errInfo = 0
  /-- The legal values of OLEN (R32). -/
  olen_le : s.olen.toNat ≤ Config.omax
  /-- Bits of DOUT at index ≥ OLEN are 0 (R39). -/
  dout_tail : ∀ k, s.olen.toNat ≤ k → k < 2048 → bitAt s.dout k = false
  /-- Bits of REM at index ≥ AUX are 0 (92 D33). -/
  rem_tail : ∀ k, s.aux.toNat ≤ k → k < 64 → bitAt s.rem k = false
  /-- CRC_OK says that the remainder is all zero (R27). -/
  crcOk_rem : s.status.crcOk = true → s.rem = Vector.replicate 2 0

/-- A step that goes on, and to a state in which the invariant holds. -/
def SafeStep (s : State) : Prop := ∃ t, step s = .next t ∧ Inv t

/-- The inputs pass the checks of CRC_ENC and CRC_VER (R183 checks 2 to 6). -/
def CrcReady (s : State) : Prop :=
  1 ≤ s.glen.toNat ∧ s.glen.toNat ≤ 64 ∧ 1 ≤ s.dlen.toNat ∧ s.dlen.toNat ≤ 1024 ∧ s.gen[0].getLsbD 31 = true

/-- The length passes the check every data command makes (R183, R188). -/
def DataReady (s : State) : Prop := s.dlen.toNat ≤ 1024

/-- The error a command reports, if any: R183's table, row by row. -/
def reportedError (i : Instr) (s : State) : Option CmdError :=
  let crcChecks : Option CmdError :=
    if s.glen.toNat = 0 then some ⟨.invalidGenLength, 0⟩
    else if s.dlen.toNat > 1024 then some ⟨.overflow, s.dlen⟩
    else if s.glen.toNat > 64 then some ⟨.overflow, s.glen⟩
    else if s.dlen.toNat = 0 then some ⟨.emptyDataword, 0⟩
    else if s.gen[0].getLsbD 31 = false then some ⟨.genLeadingZero, 0⟩
    else none
  let lengthCheck : Option CmdError := if s.dlen.toNat > 1024 then some ⟨.overflow, s.dlen⟩ else none
  match i with
  | .crcEnc => crcChecks
  | .crcVer => crcChecks
  | .hamPcount => lengthCheck
  | .hamEnc => lengthCheck
  | .stuff => lengthCheck
  | .destuff =>
    lengthCheck.or <|
      match destuffBits (dataBits s) with
      | .ok _ => none
      | .error t => some ⟨.stuffViolation, BitVec.ofNat 32 t⟩
  | .clr => none

/-- The block alone: the model's own fields set aside. -/
def blockOf (s : State) : State := { s with agenda := [], response := none, wait := 0, draws := 0 }

/-- The block alone, COLL set aside as well. -/
def blockNoColl (s : State) : State :=
  { blockOf s with status := { s.status with coll := false } }

/-- Neither the block's inputs, nor its latch, nor COLL, nor a field of the model's own differs. -/
def SameBesideResults (s t : State) : Prop :=
  t.dlen = s.dlen ∧ t.glen = s.glen ∧ t.din = s.din ∧ t.gen = s.gen ∧ t.lcmd = s.lcmd
    ∧ t.status.coll = s.status.coll
    ∧ t.agenda = s.agenda ∧ t.response = s.response ∧ t.wait = s.wait ∧ t.draws = s.draws

/-- A host event that is no reset. -/
def notReset : HostEvent → Bool
  | .access _ => true
  | .burst _ => true
  | .reset _ => false

/-- Character `t` of `x` is the fifth '1' of a maximal run of consecutive '1's (R152). -/
def fifthOfRun (x : Bits) (t : Nat) : Bool :=
  decide (4 ≤ t) && (List.range 5).all (fun j => x.getD (t - j) false)
    && (decide (t = 4) || !x.getD (t - 5) false)

/-- `x` with one '0' put in right after every fifth '1' of a maximal run (R152). -/
def withGuards (x : Bits) : Bits :=
  (List.range x.length).flatMap fun t =>
    if fifthOfRun x t then [x.getD t false, false] else [x.getD t false]

/-- How many words a buffer has (R20). -/
def bufferSize : HostBuffer → Nat
  | .din => 32
  | .gen => 2
  | .rem => 2
  | .dout => 64

/-- The offset of word `i` of a buffer, from R20's table. -/
def bufferOffset : HostBuffer → Nat → Nat
  | .din, i => 0x100 + 4 * i
  | .gen, i => 0x180 + 4 * i
  | .rem, i => 0x190 + 4 * i
  | .dout, i => 0x200 + 4 * i

/-- The product of two naturals read as polynomials over GF(2) (R102). -/
def polyMul (a b : Nat) : Nat :=
  (List.range (bitlen a)).foldl (fun acc i => if a.testBit i then acc ^^^ (b <<< i) else acc) 0

/-- Position `i` of a Hamming codeword `c`: character `n - i` (R135). -/
def hammingPosition (c : Bits) (i : Nat) : Bool := c.getD (c.length - i) false

end Sys2Proof.Machine
end

