-- ==== Sys2Proof/Certificates/Slice0/Obligations.lean ====
section
/-! DEFINITION. The statements about the block, one definition each. The rules they come from are named in their
docstrings and in OBLIGATIONS.json. -/

open Sys2Proof Sys2Proof.Machine

/-! ### Encoding -/

/-- R71: a word is legal exactly when RSV = 0 and OP is one of the seven, and each full word of the map stands for its
command and no other word does. -/
def Obligations.LegalWordsAreExactlyTheMap : Prop :=
  (∀ w : Word, (∃ i, decode w = .ok i) ↔
    w.extractLsb' 4 28 = 0 ∧ w.extractLsb' 0 4 ∈ ([0x1, 0x2, 0x3, 0x4, 0x5, 0x6, 0xF] : List (BitVec 4))) ∧
  ∀ (w : Word) (i : Instr), decode w = .ok i ↔
    (w, i) ∈ [(0x00000001#32, Instr.crcEnc), (0x00000002#32, .crcVer), (0x00000003#32, .hamPcount),
      (0x00000004#32, .hamEnc), (0x00000005#32, .stuff), (0x00000006#32, .destuff), (0x0000000F#32, .clr)]

/-- Decode and encode agree, in both directions and for the table's numbering of a command's bits (R70, R71). -/
def Obligations.DecodeAndEncodeAgree : Prop :=
  (∀ i : Instr, i.wf = true → decode (encode i) = .ok i) ∧
  (∀ (w : Word) (i : Instr), decode w = .ok i → encode i = w) ∧
  (∀ (i : Instr) (n : Nat), n < 2 ^ 32 → (decodeTableWord 32 n = some i ↔ n = (encode i).toNat))

/-- A few words written out from R71 and R72 decode to what they stand for, or are rejected by name. -/
def Obligations.WrittenOutWordsDecode : Prop :=
  decode 0x00000001#32 = .ok .crcEnc ∧ decode 0x00000004#32 = .ok .hamEnc ∧ decode 0x00000006#32 = .ok .destuff ∧
  decode 0x0000000F#32 = .ok .clr ∧ decode 0x00000000#32 = .error .noSuchOp ∧
  decode 0x0000000E#32 = .error .noSuchOp ∧ decode 0x0000001F#32 = .error .reservedNotZero

/-! ### The step and the life cycle of a command -/

/-- R75, R79: when the engine moves, a step runs the command decoded from LCMD, and nothing is added around it. -/
def Obligations.StepRunsTheDecodedCommand : Prop :=
  ∀ (s : State) (i : Instr), s.status.busy = true → (s.wait = 0 ∨ s.agenda = []) → i.wf = true →
    decode s.lcmd = .ok i → step s = exec i s

/-- R75, R58: with BUSY = 0 the engine has no step; a step is the host's next event, and with none pending nothing
changes (the idle step is the model's choice, log entry 5). -/
def Obligations.IdleEngineDoesNothing : Prop :=
  ∀ s : State, s.status.busy = false → step s = .next (hostStep s) ∧ (s.agenda = [] → step s = .next s)

/-- R74: a CMD write while BUSY = 0 latches any word, legal or not, clears the result state and COLL, sets BUSY, and
leaves the input state alone (how the event and its response stand in State is the model's, log entries 3 and 4). -/
def Obligations.CmdWriteIssues : Prop :=
  ∀ (s : State) (v : Word) (rest : List HostEvent), s.status.busy = false →
    s.agenda = .access (memWrite (Config.base + 0x004) v) :: rest →
    ∃ t, step s = .next t ∧ t.lcmd = v ∧ ResultsClear t ∧ t.status.coll = false ∧ t.status.busy = true ∧
      statusWord t.status = 0x00000001#32 ∧ t.dlen = s.dlen ∧ t.glen = s.glen ∧ t.din = s.din ∧ t.gen = s.gen ∧
      t.agenda = rest ∧ t.response = some .ack

/-- R77: a write while BUSY = 1 to any offset only sets COLL; one answered with a bus error does not even do that
(that the event uses up one of the latency, and how it and its response stand in State, is the model's choice, log
entries 2 to 4). -/
def Obligations.BusyWriteOnlySetsColl : Prop :=
  ∀ (s : State) (off width : Nat) (v : Word) (rest : List HostEvent), s.status.busy = true → s.wait ≠ 0 →
    off < 0x1000 → s.agenda = .access ⟨Config.base + off, width, .write v⟩ :: rest →
    step s =
      if width = 32 ∧ off % 4 = 0 then
        .next { s with status := { s.status with coll := true }, agenda := rest, wait := s.wait - 1,
                       response := some .ack }
      else .next { s with agenda := rest, wait := s.wait - 1, response := some .busError }

/-- R191, R51: an access of another width or at an unaligned offset gets a bus error, whether it reads or writes and
whether a command runs or not, and no register, buffer, latch or STATUS bit changes. -/
def Obligations.BusErrorChangesNoRegister : Prop :=
  ∀ (s : State) (a : Access) (off : Nat) (rest : List HostEvent), engineTurn s = false →
    a.addr = Config.base + off → off < 0x1000 → (a.width ≠ 32 ∨ off % 4 ≠ 0) → s.agenda = .access a :: rest →
    ∃ t, step s = .next t ∧ t.response = some .busError ∧ blockOf t = blockOf s ∧ t.agenda = rest

/-- R51, R58: a 32-bit aligned read returns the word at its offset and has no side effect, busy or not. -/
def Obligations.ReadReturnsTheWordOnly : Prop :=
  ∀ (s : State) (off : Nat) (rest : List HostEvent), engineTurn s = false → off < 0x1000 → off % 4 = 0 →
    s.agenda = .access (memRead (Config.base + off)) :: rest →
    ∃ t, step s = .next t ∧ t.response = some (.data (readOffset s off)) ∧ blockOf t = blockOf s ∧ t.agenda = rest

/-- R78: while BUSY = 1 STATUS reads with only BUSY and COLL, the result registers and buffers read as zero, and the
input registers read back their values. The premise `Inv` is kept by every step (StepKeepsInvariant). -/
def Obligations.BusyReadsShowClearedResults : Prop :=
  ∀ s : State, Inv s → s.status.busy = true →
    readOffset s 0x008 = (if s.status.coll then 0x00000011#32 else 0x00000001#32) ∧
    readOffset s 0x014 = 0 ∧ readOffset s 0x018 = 0 ∧ readOffset s 0x01C = 0 ∧
    (∀ i, i < 2 → readOffset s (0x190 + 4 * i) = 0) ∧ (∀ i, i < 64 → readOffset s (0x200 + 4 * i) = 0) ∧
    readOffset s 0x00C = s.dlen ∧ readOffset s 0x010 = s.glen ∧
    (∀ i : Fin 32, readOffset s (0x100 + 4 * i.val) = s.din[i]) ∧
    (∀ i : Fin 2, readOffset s (0x180 + 4 * i.val) = s.gen[i])

/-- R75, R76, R210: BUSY falls after at most as many host events as the latency lets pass, be it by a completion or by a
reset that abandons the command; with no reset pending the command completes, with DONE = 1. That the latency is
finite is the model's form of weak fairness (log entry 2). -/
def Obligations.BusyFallsAndUnresetCommandsComplete : Prop :=
  ∀ s : State, s.status.busy = true →
    (∃ (k : Nat) (t : State), k ≤ s.wait + 1 ∧ core.run k s = .next t ∧ t.status.busy = false) ∧
    ((∀ e ∈ s.agenda, notReset e = true) →
      ∃ (k : Nat) (t : State), k ≤ s.wait + 1 ∧ core.run k s = .next t ∧ t.status.busy = false ∧
        t.status.done = true)

/-- R76, R65: results never depend on the latency. Whatever accesses and bursts come in between, the block is left as
the completion step at once would have left it, COLL aside. That it completes within `wait + 1` steps is the model's form
of the latency (log entry 2). -/
def Obligations.ResultsDoNotDependOnLatency : Prop :=
  ∀ s u : State, s.status.busy = true → (∀ e ∈ s.agenda, notReset e = true) → engineStep s = .next u →
    ∃ (k : Nat) (t : State), k ≤ s.wait + 1 ∧ core.run k s = .next t ∧ t.status.busy = false ∧
      blockNoColl t = blockNoColl u

/-- R195: a write and the completion that compete. If the write comes first it is dropped and COLL is set; if the
completion comes first the write is performed on the completed state. Either way the command's result is the same.
That the latency left tells which comes first is the model's choice (log entry 2). -/
def Obligations.WriteAndCompletionBothOrders : Prop :=
  ∀ (s u : State) (off : Nat) (v : Word), s.status.busy = true → off < 0x1000 → off % 4 = 0 →
    s.agenda = [.access (memWrite (Config.base + off) v)] → engineStep s = .next u →
    (s.wait = 0 → ∃ t, core.run 2 s = .next t ∧ blockOf t = blockOf (writeOffset u off v)) ∧
    (s.wait = 1 → ∃ t t', core.run 1 s = .next t ∧ t.status.coll = true ∧
      blockOf t = blockOf { s with status := { s.status with coll := true } } ∧
      core.run 2 s = .next t' ∧ blockNoColl t' = blockNoColl u)

/-- R41: the value of LCMD while BUSY = 0 has no effect. That an issue from the two states gets one latency is the
model's choice (log entry 2). -/
def Obligations.IdleLatchHasNoEffect : Prop :=
  ∀ (s u : State) (w : Word), s.status.busy = false → step s = .next u →
    ∃ t, step { s with lcmd := w } = .next t ∧ { t with lcmd := 0 } = { u with lcmd := 0 } ∧
      (t.status.busy = true → t.lcmd = u.lcmd)

/-- R51: a burst of 32-bit beats is performed as one access per beat, in order; another burst gets a bus error and
changes no state (the form of a burst is the model's, log entry 7). -/
def Obligations.BurstIsOneAccessPerBeat : Prop :=
  ∀ (s : State) (b : Access) (beats : List Access) (rest : List HostEvent), engineTurn s = false →
    s.agenda = .burst (b :: beats) :: rest →
    ((∀ a ∈ b :: beats, a.width = 32) → ∃ t, step s = .next t ∧ blockOf t = blockOf (performAccess b s) ∧
      t.response = (performAccess b s).response ∧
      t.agenda = if beats = [] then rest else .burst beats :: rest) ∧
    ((∃ a ∈ b :: beats, a.width ≠ 32) → (∃ a ∈ b :: beats, inWindow a.addr = true) →
      ∃ t, step s = .next t ∧ blockOf t = blockOf s ∧ t.response = some .busError ∧ t.agenda = rest)

/-! ### The window -/

/-- R20, R60: the window's map. An aligned offset is reserved exactly in the listed ranges, and every other one holds
the register whose offset it is; and what a read returns at each offset of R20's table, in every state. -/
def Obligations.WindowMap : Prop :=
  (∀ off, off < 0x1000 → off % 4 = 0 →
    (regAt off = none ↔ (0x02C ≤ off ∧ off < 0x100) ∨ (0x188 ≤ off ∧ off < 0x190) ∨ (0x198 ≤ off ∧ off < 0x200) ∨
      0x300 ≤ off)) ∧
  (∀ (off : Nat) (r : WinReg), off % 4 = 0 → (regAt off = some r ↔ offsetOf r = off)) ∧
  ∀ s : State,
    readOffset s 0x000 = 0x4C430007#32 ∧ readOffset s 0x004 = 0 ∧ readOffset s 0x008 = statusWord s.status ∧
    readOffset s 0x00C = s.dlen ∧ readOffset s 0x010 = s.glen ∧ readOffset s 0x014 = s.olen ∧
    readOffset s 0x018 = s.aux ∧ readOffset s 0x01C = s.errInfo ∧ readOffset s 0x020 = 0x00000400#32 ∧
    readOffset s 0x024 = 0x00000040#32 ∧ readOffset s 0x028 = 0x00000800#32 ∧
    (∀ i : Fin 32, readOffset s (0x100 + 4 * i.val) = s.din[i]) ∧
    (∀ i : Fin 2, readOffset s (0x180 + 4 * i.val) = s.gen[i]) ∧
    (∀ i : Fin 2, readOffset s (0x190 + 4 * i.val) = s.rem[i]) ∧
    (∀ i : Fin 64, readOffset s (0x200 + 4 * i.val) = s.dout[i]) ∧
    (∀ off, off % 4 = 0 → ((0x02C ≤ off ∧ off < 0x100) ∨ (0x188 ≤ off ∧ off < 0x190) ∨
      (0x198 ≤ off ∧ off < 0x200) ∨ 0x300 ≤ off) → readOffset s off = 0)

/-- R57, R56: while BUSY = 0 a write to a read-write word stores all 32 bits and changes no other word of the window,
a write to a read-only or reserved word changes nothing, and a write to CMD issues. -/
def Obligations.IdleWriteByAccess : Prop :=
  ∀ (s : State) (off : Nat) (v : Word) (rest : List HostEvent), s.status.busy = false → off < 0x1000 → off % 4 = 0 →
    s.agenda = .access (memWrite (Config.base + off) v) :: rest →
    ∃ t, step s = .next t ∧ t.response = some .ack ∧ t.agenda = rest ∧
      if off = 0x004 then blockOf t = blockOf (issue v s)
      else if off = 0x00C ∨ off = 0x010 ∨ (0x100 ≤ off ∧ off < 0x188) then
        readOffset t off = v ∧ (∀ off', off' % 4 = 0 → off' ≠ off → readOffset t off' = readOffset s off') ∧
        t.lcmd = s.lcmd ∧ t.status = s.status
      else blockOf t = blockOf s

/-- R21, R35, R22: the hard-wired words, in every state; CMD reads as zero. -/
def Obligations.HardWiredWords : Prop :=
  ∀ s : State, readOffset s 0x000 = 0x4C430007#32 ∧ readOffset s 0x020 = 0x00000400#32 ∧
    readOffset s 0x024 = 0x00000040#32 ∧ readOffset s 0x028 = 0x00000800#32 ∧ readOffset s 0x004 = 0

/-- R23: the layout of STATUS, bit by bit, reserved bits included. -/
def Obligations.StatusLayout : Prop :=
  ∀ s : State, (readOffset s 0x008).getLsbD 0 = s.status.busy ∧ (readOffset s 0x008).getLsbD 1 = s.status.done ∧
    (readOffset s 0x008).getLsbD 2 = s.status.err ∧ (readOffset s 0x008).getLsbD 3 = s.status.crcOk ∧
    (readOffset s 0x008).getLsbD 4 = s.status.coll ∧ (readOffset s 0x008).extractLsb' 5 3 = 0 ∧
    (readOffset s 0x008).extractLsb' 8 4 = s.status.errCode ∧ (readOffset s 0x008).extractLsb' 12 20 = 0

/-- R52: the byte lanes of a word are little-endian, lane `i` being bits `8i+7 : 8i`. -/
def Obligations.ByteLanesAreLittleEndian : Prop :=
  ∀ (s : State) (off : Nat),
    readOffset s off = (byteLane s off 3 ++ byteLane s off 2 ++ byteLane s off 1 ++ byteLane s off 0 : BitVec 32) ∧
    ∀ i j, i < 4 → j < 8 → (byteLane s off i).getLsbD j = (readOffset s off).getLsbD (8 * i + j)

/-! ### CRC -/

/-- R103: CRC_ENC on inputs that pass its checks. The codeword is the dataword followed by the remainder of the
shifted dataword, REM holds that remainder, both zero past their ends, AUX its length.
Over all states the status fields and ERRINFO that a success does not touch stay as they were: log entry 12 (DEDUCED).
From the cleared fields that issue leaves they are 0 (SuccessStatusWord). -/
def Obligations.CrcEncodeResult : Prop :=
  ∀ s : State, CrcReady s →
    ∃ t, exec .crcEnc s = .next t ∧
      t.olen.toNat = s.dlen.toNat + s.glen.toNat - 1 ∧
      bitsOf t.dout t.olen.toNat = dataBits s ++
        bin (modDiv (val (dataBits s) * 2 ^ (s.glen.toNat - 1)) (val (genBits s))) (s.glen.toNat - 1) ∧
      bitsOf t.rem (s.glen.toNat - 1) =
        bin (modDiv (val (dataBits s) * 2 ^ (s.glen.toNat - 1)) (val (genBits s))) (s.glen.toNat - 1) ∧
      (∀ k, t.olen.toNat ≤ k → k < 2048 → bitAt t.dout k = false) ∧
      (∀ k, s.glen.toNat - 1 ≤ k → k < 64 → bitAt t.rem k = false) ∧
      t.aux.toNat = s.glen.toNat - 1 ∧ t.errInfo = s.errInfo ∧
      t.status = { s.status with done := true, busy := false } ∧ SameBesideResults s t

/-- R104: CRC_VER on inputs that pass its checks. CRC_OK says whether the received word's remainder is zero; REM and
AUX are written; OLEN and DOUT are not.
Over all states the status fields and ERRINFO that a success does not touch stay as they were: log entry 12 (DEDUCED).
From the cleared fields that issue leaves they are 0 (SuccessStatusWord). -/
def Obligations.CrcVerifyResult : Prop :=
  ∀ s : State, CrcReady s →
    ∃ t, exec .crcVer s = .next t ∧
      bitsOf t.rem (s.glen.toNat - 1) =
        bin (modDiv (val (dataBits s)) (val (genBits s))) (s.glen.toNat - 1) ∧
      (∀ k, s.glen.toNat - 1 ≤ k → k < 64 → bitAt t.rem k = false) ∧
      t.aux.toNat = s.glen.toNat - 1 ∧ t.olen = s.olen ∧ t.dout = s.dout ∧ t.errInfo = s.errInfo ∧
      t.status = { s.status with done := true, busy := false,
                                 crcOk := decide (modDiv (val (dataBits s)) (val (genBits s)) = 0) } ∧
      SameBesideResults s t

/-- R101: the divider's passes. Each aligns the generator with the dividend's leading 1 and shortens it; the result is
shorter than the generator, and no more than `bitlen D - bitlen G + 1` passes are made. -/
def Obligations.ModDivFollowsItsPasses : Prop :=
  ∀ d g : Nat, 1 ≤ g →
    (bitlen d < bitlen g → modDiv d g = d) ∧
    (bitlen g ≤ bitlen d → modDiv d g = modDiv (d ^^^ (g <<< (bitlen d - bitlen g))) g ∧
      bitlen (d ^^^ (g <<< (bitlen d - bitlen g))) < bitlen d) ∧
    modDiv d g < 2 ^ (bitlen g - 1) ∧
    modDivPasses (bitlen d + 1 - bitlen g) d g = modDiv d g

/-- R102: `ModDiv(D, G)` is the polynomial remainder of D by G over GF(2), the only one of lower degree, and linear in
D. -/
def Obligations.ModDivIsThePolynomialRemainder : Prop :=
  ∀ g : Nat, 1 ≤ g →
    (∀ d, ∃ q, d = polyMul q g ^^^ modDiv d g) ∧
    (∀ q r, bitlen r < bitlen g → modDiv (polyMul q g ^^^ r) g = r) ∧
    (∀ d d', modDiv (d ^^^ d') g = modDiv d g ^^^ modDiv d' g)

/-- R106 item 1: CRC_VER accepts every codeword CRC_ENC makes, with the same generator: as bit-strings of any length,
and on the block for every codeword that fits DIN. -/
def Obligations.VerifyAcceptsEncodedWord : Prop :=
  (∀ d g : Bits, g.headD false = true → crcVerifyRem (d ++ crcEncodeRem d g) g = 0) ∧
  ∀ s t u : State, CrcReady s → exec .crcEnc s = .next t → t.olen.toNat ≤ 1024 →
    u.glen = s.glen → u.gen = s.gen → u.dlen = t.olen → bitsOf u.din t.olen.toNat = bitsOf t.dout t.olen.toNat →
    ∃ v, exec .crcVer u = .next v ∧ v.status.crcOk = true ∧ v.rem = Vector.replicate 2 0

/-- R106 item 2: flipping bit `i` of a valid codeword is detected exactly when the generator does not divide `x^i`, and
every single flip is detected exactly when the generator has at least two '1' bits: as remainders, and on the block, as
CRC_VER's CRC_OK on a received word that verified and then has character `i` flipped, which is bit `DLEN - 1 - i`. For a
generator with a single '1' bit, `2^j`, just the flips below bit `j` are detected. -/
def Obligations.SingleBitFlipDetection : Prop :=
  (∀ c g i : Nat, 1 ≤ g → modDiv c g = 0 → modDiv (c ^^^ 2 ^ i) g = modDiv (2 ^ i) g) ∧
  (∀ g : Nat, 1 ≤ g → ((∀ i, modDiv (2 ^ i) g ≠ 0) ↔ ∀ j, g ≠ 2 ^ j)) ∧
  ∀ (s t u : State) (i : Nat), CrcReady s → exec .crcVer s = .next t → t.status.crcOk = true →
    u.dlen = s.dlen → u.glen = s.glen → u.gen = s.gen → i < s.dlen.toNat →
    dataBits u = (dataBits s).set i (!(dataBits s).getD i false) →
    ∃ v, exec .crcVer u = .next v ∧
      (v.status.crcOk = false ↔ modDiv (2 ^ (s.dlen.toNat - 1 - i)) (val (genBits s)) ≠ 0) ∧
      ((∀ j, val (genBits s) ≠ 2 ^ j) → v.status.crcOk = false) ∧
      (∀ j, val (genBits s) = 2 ^ j → (v.status.crcOk = false ↔ s.dlen.toNat - 1 - i < j))

/-- R103, R104 corner cases: a generator of length 1 makes CRC_ENC the identity with an empty remainder, and every
word verifies under it. -/
def Obligations.LengthOneGeneratorIsIdentity : Prop :=
  ∀ s : State, CrcReady s → s.glen = 1 →
    (∃ t, exec .crcEnc s = .next t ∧ t.olen = s.dlen ∧ bitsOf t.dout t.olen.toNat = dataBits s ∧
      t.rem = Vector.replicate 2 0 ∧ t.aux = 0) ∧
    (∃ t, exec .crcVer s = .next t ∧ t.status.crcOk = true)

/-! ### Hamming -/

/-- R133: HAM_PCOUNT within the capacity writes the parity count to AUX, sets DONE, clears BUSY, and changes nothing else.
Over all states the status fields and ERRINFO that a success does not touch stay as they were: log entry 12 (DEDUCED).
From the cleared fields that issue leaves they are 0 (SuccessStatusWord). -/
def Obligations.ParityCountResult : Prop :=
  ∀ s : State, DataReady s →
    ∃ t, exec .hamPcount s = .next t ∧ t.aux.toNat = parityCount s.dlen.toNat ∧ t.olen = s.olen ∧
      t.dout = s.dout ∧ t.rem = s.rem ∧ t.errInfo = s.errInfo ∧
      t.status = { s.status with done := true, busy := false } ∧ SameBesideResults s t

/-- R134: HAM_ENC within the capacity writes the Hamming codeword to DOUT, zero past its end, its length to OLEN and
the parity count to AUX, sets DONE, clears BUSY, and changes nothing else.
Over all states the status fields and ERRINFO that a success does not touch stay as they were: log entry 12 (DEDUCED).
From the cleared fields that issue leaves they are 0 (SuccessStatusWord). -/
def Obligations.HammingEncodeResult : Prop :=
  ∀ s : State, DataReady s →
    ∃ t, exec .hamEnc s = .next t ∧
      t.olen.toNat = s.dlen.toNat + parityCount s.dlen.toNat ∧
      bitsOf t.dout t.olen.toNat = hammingCode (dataBits s) ∧
      (∀ k, t.olen.toNat ≤ k → k < 2048 → bitAt t.dout k = false) ∧
      t.aux.toNat = parityCount s.dlen.toNat ∧ t.rem = s.rem ∧ t.errInfo = s.errInfo ∧
      t.status = { s.status with done := true, busy := false } ∧ SameBesideResults s t

/-- R130: `ParityCount(m)` is the least `r` with `2^r ≥ m + r + 1`, with its closed ranges and the listed values. -/
def Obligations.ParityCountIsLeast : Prop :=
  (∀ m, m + parityCount m + 1 ≤ 2 ^ parityCount m) ∧
  (∀ m r, r < parityCount m → 2 ^ r < m + r + 1) ∧
  (∀ m r, 2 ≤ r → 2 ^ (r - 1) + 1 ≤ m + r → m + r + 1 ≤ 2 ^ r → parityCount m = r) ∧
  parityCount 0 = 0 ∧ parityCount 1 = 2 ∧ parityCount 1024 = 11

/-- R131: the layout. For a non-empty dataword the power-of-two positions are the first `r` powers, the other `m`
positions are left for data, the last position is no power of two, and a power-of-two position lies in its own parity
group only. -/
def Obligations.HammingLayoutFacts : Prop :=
  parityCount 0 = 0 ∧
  ∀ m, 1 ≤ m →
    2 ≤ parityCount m ∧ 2 ^ (parityCount m - 1) < m + parityCount m ∧ m + parityCount m < 2 ^ parityCount m ∧
    (∀ i, 1 ≤ i → i ≤ m + parityCount m → (isPow2 i = true ↔ ∃ j, j < parityCount m ∧ i = 2 ^ j)) ∧
    (∀ j, j < parityCount m → 2 ^ j ≤ m + parityCount m) ∧
    isPow2 (m + parityCount m) = false ∧
    ((List.range' 1 (m + parityCount m)).filter (fun i => !isPow2 i)).length = m ∧
    (∀ j k, j < parityCount m → k < parityCount m → (2 ^ j &&& 2 ^ k ≠ 0 ↔ j = k))

/-- R135: the closed form of the codeword. Read from the last position down, the data positions hold the dataword in
its order, and every parity group has even parity. -/
def Obligations.HammingCodewordClosedForm : Prop :=
  ∀ d : Bits,
    (hammingCode d).length = d.length + parityCount d.length ∧
    ((List.range (hammingCode d).length).filter (fun t => !isPow2 ((hammingCode d).length - t))).map
      (fun t => (hammingCode d).getD t false) = d ∧
    ∀ k, k < parityCount d.length →
      ((List.range' 1 (hammingCode d).length).filter (fun i => i &&& 2 ^ k ≠ 0)).foldl
        (fun acc i => acc ^^ hammingPosition (hammingCode d) i) false = false

/-! ### Stuffing -/

/-- R151: STUFF within the capacity writes the stuffed stream to DOUT, zero past its end, its length to OLEN and the
number of guards to AUX, sets DONE, clears BUSY, and changes nothing else.
Over all states the status fields and ERRINFO that a success does not touch stay as they were: log entry 12 (DEDUCED).
From the cleared fields that issue leaves they are 0 (SuccessStatusWord). -/
def Obligations.StuffResult : Prop :=
  ∀ s : State, DataReady s →
    ∃ t, exec .stuff s = .next t ∧
      bitsOf t.dout t.olen.toNat = (stuffBits (dataBits s)).1 ∧
      t.olen.toNat = s.dlen.toNat + (stuffBits (dataBits s)).2 ∧
      (∀ k, t.olen.toNat ≤ k → k < 2048 → bitAt t.dout k = false) ∧
      t.aux.toNat = (stuffBits (dataBits s)).2 ∧ t.rem = s.rem ∧ t.errInfo = s.errInfo ∧
      t.status = { s.status with done := true, busy := false } ∧ SameBesideResults s t

/-- R153: DESTUFF on a stream in which every guard due is there writes the stream without its guards to DOUT, zero past
its end, its length to OLEN and the number of guards to AUX, sets DONE, clears BUSY, and changes nothing else.
Over all states the status fields and ERRINFO that a success does not touch stay as they were: log entry 12 (DEDUCED).
From the cleared fields that issue leaves they are 0 (SuccessStatusWord). -/
def Obligations.DestuffResult : Prop :=
  ∀ (s : State) (x : Bits) (k : Nat), DataReady s → destuffBits (dataBits s) = .ok (x, k) →
    ∃ t, exec .destuff s = .next t ∧
      bitsOf t.dout t.olen.toNat = x ∧ t.olen.toNat + k = s.dlen.toNat ∧
      (∀ j, t.olen.toNat ≤ j → j < 2048 → bitAt t.dout j = false) ∧
      t.aux.toNat = k ∧ t.rem = s.rem ∧ t.errInfo = s.errInfo ∧
      t.status = { s.status with done := true, busy := false } ∧ SameBesideResults s t

/-- R152: STUFF inserts exactly one '0' right after the fifth '1' of every maximal run of five or more and nothing
anywhere else; AUX counts those runs and is at most `ceil(DLEN / 6)`; a single long run is left with all but its first
five '1's together. -/
def Obligations.OneGuardPerLongRun : Prop :=
  ∀ x : Bits,
    (stuffBits x).1 = withGuards x ∧
    (stuffBits x).2 = ((List.range x.length).filter (fifthOfRun x)).length ∧
    (stuffBits x).1.length = x.length + (stuffBits x).2 ∧
    (stuffBits x).2 ≤ (x.length + 5) / 6 ∧
    ∀ n, 5 ≤ n →
      (stuffBits (List.replicate n true)).1 = List.replicate 5 true ++ false :: List.replicate (n - 5) true

/-- R154: the round trip as bit-strings. DESTUFF undoes STUFF, STUFF undoes DESTUFF, and DESTUFF fails exactly on the
streams that are no output of STUFF. -/
def Obligations.StuffingRoundTrip : Prop :=
  (∀ x : Bits, destuffBits (stuffBits x).1 = .ok (x, (stuffBits x).2)) ∧
  (∀ (y x : Bits) (k : Nat), destuffBits y = .ok (x, k) → stuffBits x = (y, k)) ∧
  (∀ y : Bits, (∃ t, destuffBits y = .error t) ↔ ∀ x : Bits, (stuffBits x).1 ≠ y)

/-- R154 on the block: the output of STUFF, loaded back into DIN, is destuffed to the stream with the same AUX, if it
fits DIN; otherwise DESTUFF fails with OVERFLOW. -/
def Obligations.DestuffUndoesStuffOnTheBlock : Prop :=
  ∀ s t u : State, DataReady s → exec .stuff s = .next t → u.dlen = t.olen →
    (t.olen.toNat ≤ 1024 → bitsOf u.din t.olen.toNat = bitsOf t.dout t.olen.toNat →
      ∃ v, exec .destuff u = .next v ∧ bitsOf v.dout v.olen.toNat = dataBits s ∧ v.olen = s.dlen ∧ v.aux = t.aux) ∧
    (1024 < t.olen.toNat → exec .destuff u = .next (errorComplete ⟨.overflow, u.dlen⟩ u))

/-- R190: STUFF_VIOLATION is reported at index `t` exactly when the first `t` bits are a stuffed stream up to a guard
that is due there, and the stream ends or goes on with '1'; ERRINFO is `t`. -/
def Obligations.ViolationIsAMissingGuard : Prop :=
  ∀ (s : State) (t : Nat), DataReady s →
    (destuffBits (dataBits s) = .error t ↔
      t ≤ s.dlen.toNat ∧
      (∃ x : Bits, fifthOfRun x (x.length - 1) = true ∧ (stuffBits x).1 = (dataBits s).take t ++ [false]) ∧
      (t = s.dlen.toNat ∨ (dataBits s).getD t false = true)) ∧
    (destuffBits (dataBits s) = .error t →
      exec .destuff s = .next (errorComplete ⟨.stuffViolation, BitVec.ofNat 32 t⟩ s))

/-! ### CLR and reset -/

/-- R170: CLR, in every state, leaves the reset values with only DONE set, and touches nothing of the host's. -/
def Obligations.ClrResult : Prop :=
  ∀ s : State, ∃ t, exec .clr s = .next t ∧ statusWord t.status = 0x00000002#32 ∧
    t.dlen = 0 ∧ t.glen = 0 ∧ t.din = Vector.replicate 32 0 ∧ t.gen = Vector.replicate 2 0 ∧ t.olen = 0 ∧
    t.aux = 0 ∧ t.errInfo = 0 ∧ t.rem = Vector.replicate 2 0 ∧ t.dout = Vector.replicate 64 0 ∧ t.lcmd = 0 ∧
    t.agenda = s.agenda ∧ t.response = s.response ∧ t.wait = s.wait ∧ t.draws = s.draws

/-- R42: every word of the window, and LCMD, at its reset value after reset, and after CLR too but for DONE. -/
def Obligations.ResetValues : Prop :=
  (∀ off, off < 0x1000 → off % 4 = 0 → readOffset State.reset off =
    if off = 0x000 then 0x4C430007#32 else if off = 0x020 then 0x00000400#32
    else if off = 0x024 then 0x00000040#32 else if off = 0x028 then 0x00000800#32 else 0) ∧
  State.reset.lcmd = 0 ∧
  ∀ s t : State, exec .clr s = .next t → t.lcmd = 0 ∧ readOffset t 0x008 = 0x00000002#32 ∧
    ∀ off, off % 4 = 0 → off ≠ 0x008 → readOffset t off = readOffset State.reset off

/-- R210: reset gives every register, buffer and latch its reset value and abandons a running command; the access it
cut off, if any, has no effect. What the host has still pending stays pending (log entry 9). -/
def Obligations.ResetTakesResetValues : Prop :=
  ∀ (s : State) (cutOff : Option Access) (rest : List HostEvent), engineTurn s = false →
    s.agenda = .reset cutOff :: rest →
    ∃ t, step s = .next t ∧ blockOf t = blockOf State.reset ∧ statusWord t.status = 0 ∧ t.agenda = rest

/-! ### Errors -/

/-- R183: each command reports only the first check that fails, in the table's order, with that check's ERRINFO, and
completes without an error when none fails; an illegal word fails before anything else. That a command without an error
leaves ERR and ERRINFO as they were, over all states, is log entry 12 (DEDUCED). -/
def Obligations.FirstFailingCheckIsReported : Prop :=
  ∀ s : State,
    (∀ d, decode s.lcmd = .error d →
      execute s.lcmd s = .next (errorComplete ⟨.illegalCmd, s.lcmd⟩ s)) ∧
    ∀ i : Instr,
      match reportedError i s with
      | some e => exec i s = .next (errorComplete e s)
      | none => ∃ t, exec i s = .next t ∧ t.status.done = true ∧ t.status.busy = false ∧
          t.status.err = (if i = .clr then false else s.status.err) ∧
          t.errInfo = (if i = .clr then 0 else s.errInfo)

/-- R182, R181: after an error STATUS is 0x6 with the code in bits 11:8 and COLL as it was, ERRINFO the detail, every
output as issue cleared it, and the input state unchanged. `ResultsClear` is what issue leaves (R74). -/
def Obligations.ErrorCompletionEffect : Prop :=
  ∀ (i : Instr) (s : State) (e : CmdError), ResultsClear s → reportedError i s = some e →
    ∃ t, exec i s = .next t ∧ t.errInfo = e.info ∧ OutputsClear t ∧ t.status.crcOk = false ∧
      statusWord t.status =
        ((match e.code with
          | .illegalCmd => 0x00000106#32
          | .invalidGenLength => 0x00000206#32
          | .emptyDataword => 0x00000306#32
          | .overflow => 0x00000506#32
          | .genLeadingZero => 0x00000606#32
          | .stuffViolation => 0x00000706#32) ||| (if s.status.coll then 0x00000010#32 else 0)) ∧
      SameBesideResults s t

/-- R103, R104, R133, R134, R151, R153, R170, flags written on success: STATUS is DONE, with COLL as it was (CLR clears it)
and CRC_OK for a CRC_VER whose remainder is zero; ERRINFO is 0. `ResultsClear` is what issue leaves (R74). -/
def Obligations.SuccessStatusWord : Prop :=
  ∀ (i : Instr) (s : State), ResultsClear s → reportedError i s = none →
    ∃ t, exec i s = .next t ∧ t.errInfo = 0 ∧
      statusWord t.status = 0x00000002#32
        ||| (if i ≠ .clr ∧ s.status.coll = true then 0x00000010#32 else 0)
        ||| (if i = .crcVer ∧ modDiv (val (dataBits s)) (val (genBits s)) = 0 then 0x00000008#32 else 0)

/-- R171, R184: a word outside the map completes with ILLEGAL_CMD and ERRINFO = the word; the input state is
unchanged. -/
def Obligations.IllegalWordReportsItself : Prop :=
  ∀ s : State, s.status.busy = true → (s.wait = 0 ∨ s.agenda = []) → ResultsClear s → (fieldsOf s.lcmd).wf = false →
    ∃ t, step s = .next t ∧ t.errInfo = s.lcmd ∧ OutputsClear t ∧ t.status.crcOk = false ∧
      statusWord t.status = (if s.status.coll then 0x00000116#32 else 0x00000106#32) ∧ SameBesideResults s t

/-- R180, R75: from every state a step goes on; a command ends with DONE set and BUSY cleared, whatever its outcome. With
BUSY = 0 and nothing pending no agent has a step by the spec, and that a step answers the same state there is the
model's choice (log entry 5). -/
def Obligations.EveryStepGoesOn : Prop :=
  (∀ s : State, ∃ t, step s = .next t) ∧
  ∀ (i : Instr) (s : State), ∃ t, exec i s = .next t ∧ t.status.done = true ∧ t.status.busy = false

/-! ### Frames and isolation -/

/-- R30, R31, R36, R37: no command but CLR changes DLEN, GLEN, DIN or GEN; nor LCMD, COLL, or anything of the host's. -/
def Obligations.InputStateIsKept : Prop :=
  ∀ (i : Instr) (s t : State), i ≠ .clr → exec i s = .next t → SameBesideResults s t

/-- R73: each command writes only the result registers its row lists, beside STATUS.DONE, ERR, ERRCODE and ERRINFO. -/
def Obligations.OnlyListedOutputsAreWritten : Prop :=
  ∀ (i : Instr) (s t : State), exec i s = .next t →
    (i = .crcVer ∨ i = .hamPcount → t.dout = s.dout ∧ t.olen = s.olen) ∧
    (i = .hamPcount ∨ i = .hamEnc ∨ i = .stuff ∨ i = .destuff → t.rem = s.rem) ∧
    (i ≠ .crcVer → i ≠ .clr → t.status.crcOk = s.status.crcOk)

/-- R54: bits of DIN at index ≥ DLEN and bits of GEN at index ≥ GLEN have no effect on any result. -/
def Obligations.BitsPastTheLengthsAreIgnored : Prop :=
  ∀ (i : Instr) (s t : State) (din : Vector Word 32) (gen : Vector Word 2),
    bitsOf din s.dlen.toNat = dataBits s → bitsOf gen s.glen.toNat = genBits s → i ≠ .clr → exec i s = .next t →
    exec i { s with din := din, gen := gen } = .next { t with din := din, gen := gen }

/-- R31, R73: the commands outside the CRC family ignore GLEN and GEN, and HAM_PCOUNT ignores DIN as well. -/
def Obligations.NonCrcCommandsIgnoreTheGenerator : Prop :=
  ∀ (i : Instr) (s t : State) (glen : Word) (gen : Vector Word 2) (din : Vector Word 32),
    (i = .hamPcount ∨ i = .hamEnc ∨ i = .stuff ∨ i = .destuff) → exec i s = .next t →
    exec i { s with glen := glen, gen := gen } = .next { t with glen := glen, gen := gen } ∧
    (i = .hamPcount → exec i { s with din := din } = .next { t with din := din })

/-! ### Invariants -/

/-- The invariant holds right after reset. -/
def Obligations.ResetMeetsInvariant : Prop := Inv State.reset

/-- Every step keeps the invariant: ERR says whether ERRCODE is nonzero, reserved codes never appear, a running or
failed command shows no result, OLEN stays within OMAX, and output bits past the lengths are zero (R26, R27, R29, R32,
R34, R39, R78, R182). -/
def Obligations.StepKeepsInvariant : Prop := ∀ s t : State, Inv s → step s = .next t → Inv t

/-- What the invariant says once a command has ended: after a failure only ERRCODE and ERRINFO tell of it, and CRC_OK is
never set beside an error (R27, R182). Every run from a state with the invariant ends in such a state. That a run of any
length goes on, through idle steps once BUSY = 0 and nothing is pending, is the model's choice (log entry 5). -/
def Obligations.RunsKeepInvariant : Prop :=
  ∀ (k : Nat) (s : State), Inv s → ∃ t, core.run k s = .next t ∧ Inv t ∧
    (t.status.crcOk = true → t.status.err = false ∧ t.status.errCode = 0 ∧ t.errInfo = 0)

/-! ### The host's programs -/

/-- R82, R53: on an idle block `LOADBITS` into DIN or GEN writes the words of `Pack` that the bit-string reaches, zero past
its end, so that the buffer holds the bit-string it names, and `COPY` into DIN or GEN stores the words of any buffer, its
own included; every other word of the buffer, and all else of the block, is as before. Into REM or DOUT, which are
read-only, both change nothing (R57). Each within the buffers' words: what happens past them is the model's choice (log
entry 15), and so is that a program's accesses run one at a time in place of any agenda (log entry 10). -/
def Obligations.LoadAndCopyStoreTheirBits : Prop :=
  ∀ h : HostRun, h.block.status.busy = false →
    (∀ bits : Bits, bits.length ≤ 1024 →
      bitsOf (runLine (.loadbits .din bits) h).block.din bits.length = bits ∧
      (∀ i : Fin 32, (runLine (.loadbits .din bits) h).block.din[i] =
        if i.val < (bits.length + 31) / 32 then (pack bits 32)[i] else h.block.din[i]) ∧
      blockOf { (runLine (.loadbits .din bits) h).block with din := h.block.din } = blockOf h.block) ∧
    (∀ bits : Bits, bits.length ≤ 64 →
      bitsOf (runLine (.loadbits .gen bits) h).block.gen bits.length = bits ∧
      (∀ i : Fin 2, (runLine (.loadbits .gen bits) h).block.gen[i] =
        if i.val < (bits.length + 31) / 32 then (pack bits 2)[i] else h.block.gen[i]) ∧
      blockOf { (runLine (.loadbits .gen bits) h).block with gen := h.block.gen } = blockOf h.block) ∧
    (∀ (buf : HostBuffer) (bits : Bits), buf = .rem ∨ buf = .dout → bits.length ≤ 32 * bufferSize buf →
      blockOf (runLine (.loadbits buf bits) h).block = blockOf h.block) ∧
    (∀ (src : HostBuffer) (n t : Nat), n ≤ bufferSize src → n ≤ 32 →
      (∀ i : Fin 32, (runLine (.copy src .din n t) h).block.din[i] =
        if i.val < n then readOffset h.block (bufferOffset src i.val) else h.block.din[i]) ∧
      blockOf { (runLine (.copy src .din n t) h).block with din := h.block.din } = blockOf h.block) ∧
    (∀ (src : HostBuffer) (n t : Nat), n ≤ bufferSize src → n ≤ 2 →
      (∀ i : Fin 2, (runLine (.copy src .gen n t) h).block.gen[i] =
        if i.val < n then readOffset h.block (bufferOffset src i.val) else h.block.gen[i]) ∧
      blockOf { (runLine (.copy src .gen n t) h).block with gen := h.block.gen } = blockOf h.block) ∧
    (∀ (src dst : HostBuffer) (n t : Nat), dst = .rem ∨ dst = .dout → n ≤ bufferSize src → n ≤ bufferSize dst →
      blockOf (runLine (.copy src dst n t) h).block = blockOf h.block)

/-- R84, R82, R83: `ISSUE` then `WAIT` on an idle block. For every latency the claims of `WAIT` hold, the block is left as
the command leaves it, and the program's transactions are the CMD write with the command's word, then STATUS reads that
find BUSY alone, as many as the latency, then one that returns the STATUS the command leaves. That the command
completes, and the number of the reads, rest on the model's form of the latency and of a program's run (log entries 2
and 10). -/
def Obligations.IssueThenWaitRunsTheCommand : Prop :=
  ∀ (h : HostRun) (i : Instr) (t : Nat), h.block.status.busy = false →
    ∃ u, exec i (issue (encode i) h.block) = .next u ∧
      blockOf (runLine (.wait t) (runLine (.issue i) h)).block = blockOf u ∧
      (runLine (.wait t) (runLine (.issue i) h)).claims = h.claims ∧
      (runLine (.wait t) (runLine (.issue i) h)).log =
        h.log ++ [⟨true, 0x004, encode i⟩] ++
          List.replicate (Config.latency h.block.draws) ⟨false, 0x008, 0x00000001#32⟩ ++
          [⟨false, 0x008, statusWord u.status⟩]

/-! ### Outside the window -/

/-- R50: the window is the 4 KiB from BASE, a multiple of 0x1000, and an access below or above it, or a burst all of whose
beats lie outside, changes nothing in the block, whatever its width and operation (that it is consumed without a
response is the model's reading, log entries 6 and 7). -/
def Obligations.AccessOutsideTheWindowChangesNothing : Prop :=
  Config.base % 0x1000 = 0 ∧
  (∀ (s : State) (a : Access) (rest : List HostEvent), engineTurn s = false →
    (a.addr < Config.base ∨ Config.base + 0x1000 ≤ a.addr) → s.agenda = .access a :: rest →
    ∃ t, step s = .next t ∧ blockOf t = blockOf s ∧ t.response = none ∧ t.agenda = rest) ∧
  (∀ (s : State) (b : Access) (beats : List Access) (rest : List HostEvent), engineTurn s = false →
    (∀ a ∈ b :: beats, a.addr < Config.base ∨ Config.base + 0x1000 ≤ a.addr) →
    s.agenda = .burst (b :: beats) :: rest →
    ∃ t, step s = .next t ∧ blockOf t = blockOf s ∧ t.response = none)
end

