-- ==== Sys2Proof/Laws/Bits.lean ====
section
/-! SUPPORT. The lemmas of the bit-string operations: `val`, `bin`, `bitlen`, `bitsOf` and `pack` (R7, R53). -/

namespace Sys2Proof.Machine

/-- The loop of `val`, from an accumulator. -/
theorem val_foldl (s : Bits) (a : Nat) :
    s.foldl (fun acc b => 2 * acc + b.toNat) a = a * 2 ^ s.length + val s := by
  induction s generalizing a with
  | nil => simp [val]
  | cons b s ih =>
    simp only [List.foldl_cons, List.length_cons, val]
    rw [ih (2 * a + b.toNat), ih (2 * 0 + b.toNat)]
    rw [Nat.pow_succ]; ring

@[simp] theorem val_nil : val [] = 0 := rfl

theorem val_cons (b : Bool) (s : Bits) : val (b :: s) = b.toNat * 2 ^ s.length + val s := by
  have h := val_foldl s (2 * 0 + b.toNat)
  simpa [val] using h

theorem val_append (s t : Bits) : val (s ++ t) = val s * 2 ^ t.length + val t := by
  rw [val, List.foldl_append, val_foldl]; rfl

theorem val_lt (s : Bits) : val s < 2 ^ s.length := by
  induction s with
  | nil => simp
  | cons b s ih =>
    rw [val_cons, List.length_cons, Nat.pow_succ]
    cases b <;> simp <;> omega

/-- Bit `k` of `val s`, counted from the right, is the character `k` places from the right end. -/
theorem testBit_val (s : Bits) (k : Nat) :
    (val s).testBit k = if k < s.length then s.getD (s.length - 1 - k) false else false := by
  induction s with
  | nil => simp
  | cons b s ih =>
    rw [val_cons, Nat.mul_comm, Nat.testBit_two_pow_mul_add _ (val_lt s)]
    by_cases h : k < s.length
    · have e : (b :: s).length - 1 - k = (s.length - 1 - k) + 1 := by simp; omega
      rw [if_pos h, ih, if_pos h, if_pos (by simp; omega), e, List.getD_cons_succ]
    · rw [if_neg h]
      by_cases h' : k = s.length
      · subst h'; cases b <;> simp
      · rw [if_neg (by simp; omega)]
        have : k - s.length = (k - s.length - 1) + 1 := by omega
        rw [this]; cases b <;> simp [Nat.testBit_succ]

@[simp] theorem length_bin (x w : Nat) : (bin x w).length = w := by simp [bin]

theorem getD_bin (x w k : Nat) : (bin x w).getD k false = if k < w then x.testBit (w - 1 - k) else false := by
  by_cases h : k < w
  · simp [bin, h, List.getD_eq_getElem?_getD]
  · simp [bin, h, List.getD_eq_getElem?_getD]

/-- `val(bin(x, w)) = x` for `x < 2 ^ w` (R7). -/
theorem val_bin {x w : Nat} (h : x < 2 ^ w) : val (bin x w) = x := by
  apply Nat.eq_of_testBit_eq
  intro k
  rw [testBit_val, length_bin, getD_bin]
  by_cases hk : k < w
  · rw [if_pos hk, if_pos (by omega)]; congr 1; omega
  · rw [if_neg hk]
    exact (Nat.testBit_lt_two_pow (lt_of_lt_of_le h (Nat.pow_le_pow_right (by decide) (by omega)))).symm

theorem lt_two_pow_bitlen (x : Nat) : x < 2 ^ bitlen x := by
  unfold bitlen
  split
  · next h => simp [h]
  · exact Nat.lt_log2_self

/-- `bitlen(x)` is the least such length (R7). -/
theorem bitlen_le_iff (x b : Nat) : bitlen x ≤ b ↔ x < 2 ^ b := by
  constructor
  · intro h
    exact lt_of_lt_of_le (lt_two_pow_bitlen x) (Nat.pow_le_pow_right (by decide) h)
  · intro h
    unfold bitlen
    split
    · omega
    · next hx => exact (Nat.log2_lt hx).2 h

@[simp] theorem length_bitsOf {n : Nat} (b : Vector Word n) (len : Nat) : (bitsOf b len).length = len := by
  simp [bitsOf]

theorem getD_bitsOf {n : Nat} (b : Vector Word n) (len k : Nat) :
    (bitsOf b len).getD k false = if k < len then bitAt b k else false := by
  by_cases h : k < len <;> simp [bitsOf, h, List.getD_eq_getElem?_getD]

/-- Bit `31 - j` of a packed word is character `j` (R53). -/
theorem getLsbD_packWord (t : Bits) {j : Nat} (h : j < 32) :
    (packWord t).getLsbD (31 - j) = t.getD j false := by
  have hlen : ((t ++ List.replicate 32 false).take 32).length = 32 := by simp
  unfold packWord
  rw [BitVec.getLsbD_ofNat, testBit_val, hlen]
  have h1 : 31 - j < 32 := by omega
  have h2 : 32 - 1 - (31 - j) = j := by omega
  rw [h2, if_pos h1]
  simp only [h1, decide_true, Bool.true_and, List.getD_eq_getElem?_getD, List.getElem?_take, h, if_true]
  by_cases hj : j < t.length
  · rw [List.getElem?_append_left hj]
  · rw [List.getElem?_append_right (by omega), List.getElem?_eq_none (by omega : t.length ≤ j),
      List.getElem?_replicate]
    split <;> simp

/-- Character `k` of a packed bit-string: the character itself, '0' past the end (R53). -/
theorem bitAt_pack (s : Bits) {n k : Nat} (h : k < 32 * n) : bitAt (pack s n) k = s.getD k false := by
  have hk : k / 32 < n := by omega
  unfold bitAt pack
  rw [Vector.getElem?_eq_getElem hk]
  simp only [Option.getD_some, Vector.getElem_ofFn]
  rw [getLsbD_packWord _ (Nat.mod_lt _ (by decide))]
  simp only [List.getD_eq_getElem?_getD, List.getElem?_drop]
  congr 2; omega

/-- `BitsOf(Pack(s, N), len(s)) = s` (R53). -/
theorem bitsOf_pack {s : Bits} {n : Nat} (h : s.length ≤ 32 * n) : bitsOf (pack s n) s.length = s := by
  apply List.ext_getElem
  · simp
  · intro k hk _
    have hk' : k < s.length := by simpa using hk
    have h1 := getD_bitsOf (pack s n) s.length k
    rw [if_pos hk', bitAt_pack s (by omega)] at h1
    simpa [List.getD_eq_getElem?_getD, hk', List.getElem?_eq_getElem, hk] using h1

/-- Two buffers are equal when all their characters are. -/
theorem buffer_ext {n : Nat} {a b : Vector Word n} (h : ∀ k, k < 32 * n → bitAt a k = bitAt b k) : a = b := by
  apply Vector.ext
  intro i hi
  apply BitVec.eq_of_getLsbD_eq
  intro j hj
  have hk := h (32 * i + (31 - j)) (by omega)
  have e1 : (32 * i + (31 - j)) / 32 = i := by omega
  have e2 : 31 - (32 * i + (31 - j)) % 32 = j := by omega
  unfold bitAt at hk
  rw [e1, e2, Vector.getElem?_eq_getElem hi, Vector.getElem?_eq_getElem hi] at hk
  exact hk

@[simp] theorem bitAt_zero {n : Nat} (k : Nat) : bitAt (Vector.replicate n (0 : Word)) k = false := by
  unfold bitAt
  by_cases h : k / 32 < n
  · rw [Vector.getElem?_eq_getElem h]; simp
  · rw [Vector.getElem?_eq_none (by omega)]; simp

end Sys2Proof.Machine
end

