-- ==== Sys2Proof/Laws/State.lean ====
section
/-! SUPPORT. What each named update of the state leaves in each field, so that no proof unfolds an update. -/

namespace Sys2Proof.Machine

/-! ### `statusCompleted` -/

@[simp] theorem statusCompleted_busy (st : Status) : (statusCompleted st).busy = false := rfl
@[simp] theorem statusCompleted_done (st : Status) : (statusCompleted st).done = true := rfl
@[simp] theorem statusCompleted_err (st : Status) : (statusCompleted st).err = st.err := rfl
@[simp] theorem statusCompleted_crcOk (st : Status) : (statusCompleted st).crcOk = st.crcOk := rfl
@[simp] theorem statusCompleted_coll (st : Status) : (statusCompleted st).coll = st.coll := rfl
@[simp] theorem statusCompleted_errCode (st : Status) : (statusCompleted st).errCode = st.errCode := rfl

/-! ### `statusFailed` -/

@[simp] theorem statusFailed_busy (c : ErrorCode) (st : Status) : (statusFailed c st).busy = false := rfl
@[simp] theorem statusFailed_done (c : ErrorCode) (st : Status) : (statusFailed c st).done = true := rfl
@[simp] theorem statusFailed_err (c : ErrorCode) (st : Status) : (statusFailed c st).err = true := rfl
@[simp] theorem statusFailed_crcOk (c : ErrorCode) (st : Status) : (statusFailed c st).crcOk = st.crcOk := rfl
@[simp] theorem statusFailed_coll (c : ErrorCode) (st : Status) : (statusFailed c st).coll = st.coll := rfl
@[simp] theorem statusFailed_errCode (c : ErrorCode) (st : Status) : (statusFailed c st).errCode = errorNumber c := rfl

/-! ### `statusWithCrcOk` -/

@[simp] theorem statusWithCrcOk_busy (ok : Bool) (st : Status) : (statusWithCrcOk ok st).busy = st.busy := rfl
@[simp] theorem statusWithCrcOk_done (ok : Bool) (st : Status) : (statusWithCrcOk ok st).done = st.done := rfl
@[simp] theorem statusWithCrcOk_err (ok : Bool) (st : Status) : (statusWithCrcOk ok st).err = st.err := rfl
@[simp] theorem statusWithCrcOk_crcOk (ok : Bool) (st : Status) : (statusWithCrcOk ok st).crcOk = ok := rfl
@[simp] theorem statusWithCrcOk_coll (ok : Bool) (st : Status) : (statusWithCrcOk ok st).coll = st.coll := rfl
@[simp] theorem statusWithCrcOk_errCode (ok : Bool) (st : Status) : (statusWithCrcOk ok st).errCode = st.errCode := rfl

/-! ### `statusCollided` -/

@[simp] theorem statusCollided_busy (st : Status) : (statusCollided st).busy = st.busy := rfl
@[simp] theorem statusCollided_done (st : Status) : (statusCollided st).done = st.done := rfl
@[simp] theorem statusCollided_err (st : Status) : (statusCollided st).err = st.err := rfl
@[simp] theorem statusCollided_crcOk (st : Status) : (statusCollided st).crcOk = st.crcOk := rfl
@[simp] theorem statusCollided_coll (st : Status) : (statusCollided st).coll = true := rfl
@[simp] theorem statusCollided_errCode (st : Status) : (statusCollided st).errCode = st.errCode := rfl

/-! ### `statusCleared` -/

@[simp] theorem statusCleared_busy (st : Status) : (statusCleared st).busy = st.busy := rfl
@[simp] theorem statusCleared_done (st : Status) : (statusCleared st).done = st.done := rfl
@[simp] theorem statusCleared_err (st : Status) : (statusCleared st).err = false := rfl
@[simp] theorem statusCleared_crcOk (st : Status) : (statusCleared st).crcOk = false := rfl
@[simp] theorem statusCleared_coll (st : Status) : (statusCleared st).coll = false := rfl
@[simp] theorem statusCleared_errCode (st : Status) : (statusCleared st).errCode = 0 := rfl

/-! ### `statusIssued` -/

@[simp] theorem statusIssued_busy : statusIssued.busy = true := rfl
@[simp] theorem statusIssued_done : statusIssued.done = false := rfl
@[simp] theorem statusIssued_err : statusIssued.err = false := rfl
@[simp] theorem statusIssued_crcOk : statusIssued.crcOk = false := rfl
@[simp] theorem statusIssued_coll : statusIssued.coll = false := rfl
@[simp] theorem statusIssued_errCode : statusIssued.errCode = 0 := rfl

/-! ### `Status.reset` -/

@[simp] theorem Status.reset_busy : Status.reset.busy = false := rfl
@[simp] theorem Status.reset_done : Status.reset.done = false := rfl
@[simp] theorem Status.reset_err : Status.reset.err = false := rfl
@[simp] theorem Status.reset_crcOk : Status.reset.crcOk = false := rfl
@[simp] theorem Status.reset_coll : Status.reset.coll = false := rfl
@[simp] theorem Status.reset_errCode : Status.reset.errCode = 0 := rfl

/-! ### `issue` -/

@[simp] theorem issue_status (v : Word) (s : State) : (issue v s).status = statusIssued := rfl
@[simp] theorem issue_dlen (v : Word) (s : State) : (issue v s).dlen = s.dlen := rfl
@[simp] theorem issue_glen (v : Word) (s : State) : (issue v s).glen = s.glen := rfl
@[simp] theorem issue_olen (v : Word) (s : State) : (issue v s).olen = 0 := rfl
@[simp] theorem issue_aux (v : Word) (s : State) : (issue v s).aux = 0 := rfl
@[simp] theorem issue_errInfo (v : Word) (s : State) : (issue v s).errInfo = 0 := rfl
@[simp] theorem issue_din (v : Word) (s : State) : (issue v s).din = s.din := rfl
@[simp] theorem issue_gen (v : Word) (s : State) : (issue v s).gen = s.gen := rfl
@[simp] theorem issue_rem (v : Word) (s : State) : (issue v s).rem = Vector.replicate 2 0 := rfl
@[simp] theorem issue_dout (v : Word) (s : State) : (issue v s).dout = Vector.replicate 64 0 := rfl
@[simp] theorem issue_lcmd (v : Word) (s : State) : (issue v s).lcmd = v := rfl
@[simp] theorem issue_agenda (v : Word) (s : State) : (issue v s).agenda = s.agenda := rfl
@[simp] theorem issue_response (v : Word) (s : State) : (issue v s).response = s.response := rfl
@[simp] theorem issue_wait (v : Word) (s : State) : (issue v s).wait = Config.latency s.draws := rfl
@[simp] theorem issue_draws (v : Word) (s : State) : (issue v s).draws = s.draws + 1 := rfl

/-! ### `complete` -/

@[simp] theorem complete_status (s : State) : (complete s).status = statusCompleted s.status := rfl
@[simp] theorem complete_dlen (s : State) : (complete s).dlen = s.dlen := rfl
@[simp] theorem complete_glen (s : State) : (complete s).glen = s.glen := rfl
@[simp] theorem complete_olen (s : State) : (complete s).olen = s.olen := rfl
@[simp] theorem complete_aux (s : State) : (complete s).aux = s.aux := rfl
@[simp] theorem complete_errInfo (s : State) : (complete s).errInfo = s.errInfo := rfl
@[simp] theorem complete_din (s : State) : (complete s).din = s.din := rfl
@[simp] theorem complete_gen (s : State) : (complete s).gen = s.gen := rfl
@[simp] theorem complete_rem (s : State) : (complete s).rem = s.rem := rfl
@[simp] theorem complete_dout (s : State) : (complete s).dout = s.dout := rfl
@[simp] theorem complete_lcmd (s : State) : (complete s).lcmd = s.lcmd := rfl
@[simp] theorem complete_agenda (s : State) : (complete s).agenda = s.agenda := rfl
@[simp] theorem complete_response (s : State) : (complete s).response = s.response := rfl
@[simp] theorem complete_wait (s : State) : (complete s).wait = s.wait := rfl
@[simp] theorem complete_draws (s : State) : (complete s).draws = s.draws := rfl

/-! ### `errorComplete` -/

@[simp] theorem errorComplete_status (e : CmdError) (s : State) : (errorComplete e s).status = statusFailed e.code s.status := rfl
@[simp] theorem errorComplete_dlen (e : CmdError) (s : State) : (errorComplete e s).dlen = s.dlen := rfl
@[simp] theorem errorComplete_glen (e : CmdError) (s : State) : (errorComplete e s).glen = s.glen := rfl
@[simp] theorem errorComplete_olen (e : CmdError) (s : State) : (errorComplete e s).olen = s.olen := rfl
@[simp] theorem errorComplete_aux (e : CmdError) (s : State) : (errorComplete e s).aux = s.aux := rfl
@[simp] theorem errorComplete_errInfo (e : CmdError) (s : State) : (errorComplete e s).errInfo = e.info := rfl
@[simp] theorem errorComplete_din (e : CmdError) (s : State) : (errorComplete e s).din = s.din := rfl
@[simp] theorem errorComplete_gen (e : CmdError) (s : State) : (errorComplete e s).gen = s.gen := rfl
@[simp] theorem errorComplete_rem (e : CmdError) (s : State) : (errorComplete e s).rem = s.rem := rfl
@[simp] theorem errorComplete_dout (e : CmdError) (s : State) : (errorComplete e s).dout = s.dout := rfl
@[simp] theorem errorComplete_lcmd (e : CmdError) (s : State) : (errorComplete e s).lcmd = s.lcmd := rfl
@[simp] theorem errorComplete_agenda (e : CmdError) (s : State) : (errorComplete e s).agenda = s.agenda := rfl
@[simp] theorem errorComplete_response (e : CmdError) (s : State) : (errorComplete e s).response = s.response := rfl
@[simp] theorem errorComplete_wait (e : CmdError) (s : State) : (errorComplete e s).wait = s.wait := rfl
@[simp] theorem errorComplete_draws (e : CmdError) (s : State) : (errorComplete e s).draws = s.draws := rfl

/-! ### `writeDout` -/

@[simp] theorem writeDout_status (out : Bits) (s : State) : (writeDout out s).status = s.status := rfl
@[simp] theorem writeDout_dlen (out : Bits) (s : State) : (writeDout out s).dlen = s.dlen := rfl
@[simp] theorem writeDout_glen (out : Bits) (s : State) : (writeDout out s).glen = s.glen := rfl
@[simp] theorem writeDout_olen (out : Bits) (s : State) : (writeDout out s).olen = lengthWord out.length := rfl
@[simp] theorem writeDout_aux (out : Bits) (s : State) : (writeDout out s).aux = s.aux := rfl
@[simp] theorem writeDout_errInfo (out : Bits) (s : State) : (writeDout out s).errInfo = s.errInfo := rfl
@[simp] theorem writeDout_din (out : Bits) (s : State) : (writeDout out s).din = s.din := rfl
@[simp] theorem writeDout_gen (out : Bits) (s : State) : (writeDout out s).gen = s.gen := rfl
@[simp] theorem writeDout_rem (out : Bits) (s : State) : (writeDout out s).rem = s.rem := rfl
@[simp] theorem writeDout_dout (out : Bits) (s : State) : (writeDout out s).dout = pack out 64 := rfl
@[simp] theorem writeDout_lcmd (out : Bits) (s : State) : (writeDout out s).lcmd = s.lcmd := rfl
@[simp] theorem writeDout_agenda (out : Bits) (s : State) : (writeDout out s).agenda = s.agenda := rfl
@[simp] theorem writeDout_response (out : Bits) (s : State) : (writeDout out s).response = s.response := rfl
@[simp] theorem writeDout_wait (out : Bits) (s : State) : (writeDout out s).wait = s.wait := rfl
@[simp] theorem writeDout_draws (out : Bits) (s : State) : (writeDout out s).draws = s.draws := rfl

/-! ### `writeRem` -/

@[simp] theorem writeRem_status (r : Bits) (s : State) : (writeRem r s).status = s.status := rfl
@[simp] theorem writeRem_dlen (r : Bits) (s : State) : (writeRem r s).dlen = s.dlen := rfl
@[simp] theorem writeRem_glen (r : Bits) (s : State) : (writeRem r s).glen = s.glen := rfl
@[simp] theorem writeRem_olen (r : Bits) (s : State) : (writeRem r s).olen = s.olen := rfl
@[simp] theorem writeRem_aux (r : Bits) (s : State) : (writeRem r s).aux = s.aux := rfl
@[simp] theorem writeRem_errInfo (r : Bits) (s : State) : (writeRem r s).errInfo = s.errInfo := rfl
@[simp] theorem writeRem_din (r : Bits) (s : State) : (writeRem r s).din = s.din := rfl
@[simp] theorem writeRem_gen (r : Bits) (s : State) : (writeRem r s).gen = s.gen := rfl
@[simp] theorem writeRem_rem (r : Bits) (s : State) : (writeRem r s).rem = pack r 2 := rfl
@[simp] theorem writeRem_dout (r : Bits) (s : State) : (writeRem r s).dout = s.dout := rfl
@[simp] theorem writeRem_lcmd (r : Bits) (s : State) : (writeRem r s).lcmd = s.lcmd := rfl
@[simp] theorem writeRem_agenda (r : Bits) (s : State) : (writeRem r s).agenda = s.agenda := rfl
@[simp] theorem writeRem_response (r : Bits) (s : State) : (writeRem r s).response = s.response := rfl
@[simp] theorem writeRem_wait (r : Bits) (s : State) : (writeRem r s).wait = s.wait := rfl
@[simp] theorem writeRem_draws (r : Bits) (s : State) : (writeRem r s).draws = s.draws := rfl

/-! ### `writeAux` -/

@[simp] theorem writeAux_status (n : Nat) (s : State) : (writeAux n s).status = s.status := rfl
@[simp] theorem writeAux_dlen (n : Nat) (s : State) : (writeAux n s).dlen = s.dlen := rfl
@[simp] theorem writeAux_glen (n : Nat) (s : State) : (writeAux n s).glen = s.glen := rfl
@[simp] theorem writeAux_olen (n : Nat) (s : State) : (writeAux n s).olen = s.olen := rfl
@[simp] theorem writeAux_aux (n : Nat) (s : State) : (writeAux n s).aux = lengthWord n := rfl
@[simp] theorem writeAux_errInfo (n : Nat) (s : State) : (writeAux n s).errInfo = s.errInfo := rfl
@[simp] theorem writeAux_din (n : Nat) (s : State) : (writeAux n s).din = s.din := rfl
@[simp] theorem writeAux_gen (n : Nat) (s : State) : (writeAux n s).gen = s.gen := rfl
@[simp] theorem writeAux_rem (n : Nat) (s : State) : (writeAux n s).rem = s.rem := rfl
@[simp] theorem writeAux_dout (n : Nat) (s : State) : (writeAux n s).dout = s.dout := rfl
@[simp] theorem writeAux_lcmd (n : Nat) (s : State) : (writeAux n s).lcmd = s.lcmd := rfl
@[simp] theorem writeAux_agenda (n : Nat) (s : State) : (writeAux n s).agenda = s.agenda := rfl
@[simp] theorem writeAux_response (n : Nat) (s : State) : (writeAux n s).response = s.response := rfl
@[simp] theorem writeAux_wait (n : Nat) (s : State) : (writeAux n s).wait = s.wait := rfl
@[simp] theorem writeAux_draws (n : Nat) (s : State) : (writeAux n s).draws = s.draws := rfl

/-! ### `writeCrcOk` -/

@[simp] theorem writeCrcOk_status (ok : Bool) (s : State) : (writeCrcOk ok s).status = statusWithCrcOk ok s.status := rfl
@[simp] theorem writeCrcOk_dlen (ok : Bool) (s : State) : (writeCrcOk ok s).dlen = s.dlen := rfl
@[simp] theorem writeCrcOk_glen (ok : Bool) (s : State) : (writeCrcOk ok s).glen = s.glen := rfl
@[simp] theorem writeCrcOk_olen (ok : Bool) (s : State) : (writeCrcOk ok s).olen = s.olen := rfl
@[simp] theorem writeCrcOk_aux (ok : Bool) (s : State) : (writeCrcOk ok s).aux = s.aux := rfl
@[simp] theorem writeCrcOk_errInfo (ok : Bool) (s : State) : (writeCrcOk ok s).errInfo = s.errInfo := rfl
@[simp] theorem writeCrcOk_din (ok : Bool) (s : State) : (writeCrcOk ok s).din = s.din := rfl
@[simp] theorem writeCrcOk_gen (ok : Bool) (s : State) : (writeCrcOk ok s).gen = s.gen := rfl
@[simp] theorem writeCrcOk_rem (ok : Bool) (s : State) : (writeCrcOk ok s).rem = s.rem := rfl
@[simp] theorem writeCrcOk_dout (ok : Bool) (s : State) : (writeCrcOk ok s).dout = s.dout := rfl
@[simp] theorem writeCrcOk_lcmd (ok : Bool) (s : State) : (writeCrcOk ok s).lcmd = s.lcmd := rfl
@[simp] theorem writeCrcOk_agenda (ok : Bool) (s : State) : (writeCrcOk ok s).agenda = s.agenda := rfl
@[simp] theorem writeCrcOk_response (ok : Bool) (s : State) : (writeCrcOk ok s).response = s.response := rfl
@[simp] theorem writeCrcOk_wait (ok : Bool) (s : State) : (writeCrcOk ok s).wait = s.wait := rfl
@[simp] theorem writeCrcOk_draws (ok : Bool) (s : State) : (writeCrcOk ok s).draws = s.draws := rfl

/-! ### `clearRegisters` -/

@[simp] theorem clearRegisters_status (s : State) : (clearRegisters s).status = statusCleared s.status := rfl
@[simp] theorem clearRegisters_dlen (s : State) : (clearRegisters s).dlen = 0 := rfl
@[simp] theorem clearRegisters_glen (s : State) : (clearRegisters s).glen = 0 := rfl
@[simp] theorem clearRegisters_olen (s : State) : (clearRegisters s).olen = 0 := rfl
@[simp] theorem clearRegisters_aux (s : State) : (clearRegisters s).aux = 0 := rfl
@[simp] theorem clearRegisters_errInfo (s : State) : (clearRegisters s).errInfo = 0 := rfl
@[simp] theorem clearRegisters_din (s : State) : (clearRegisters s).din = Vector.replicate 32 0 := rfl
@[simp] theorem clearRegisters_gen (s : State) : (clearRegisters s).gen = Vector.replicate 2 0 := rfl
@[simp] theorem clearRegisters_rem (s : State) : (clearRegisters s).rem = Vector.replicate 2 0 := rfl
@[simp] theorem clearRegisters_dout (s : State) : (clearRegisters s).dout = Vector.replicate 64 0 := rfl
@[simp] theorem clearRegisters_lcmd (s : State) : (clearRegisters s).lcmd = 0 := rfl
@[simp] theorem clearRegisters_agenda (s : State) : (clearRegisters s).agenda = s.agenda := rfl
@[simp] theorem clearRegisters_response (s : State) : (clearRegisters s).response = s.response := rfl
@[simp] theorem clearRegisters_wait (s : State) : (clearRegisters s).wait = s.wait := rfl
@[simp] theorem clearRegisters_draws (s : State) : (clearRegisters s).draws = s.draws := rfl

/-! ### `resetBlock` -/

@[simp] theorem resetBlock_status (s : State) : (resetBlock s).status = Status.reset := rfl
@[simp] theorem resetBlock_dlen (s : State) : (resetBlock s).dlen = 0 := rfl
@[simp] theorem resetBlock_glen (s : State) : (resetBlock s).glen = 0 := rfl
@[simp] theorem resetBlock_olen (s : State) : (resetBlock s).olen = 0 := rfl
@[simp] theorem resetBlock_aux (s : State) : (resetBlock s).aux = 0 := rfl
@[simp] theorem resetBlock_errInfo (s : State) : (resetBlock s).errInfo = 0 := rfl
@[simp] theorem resetBlock_din (s : State) : (resetBlock s).din = Vector.replicate 32 0 := rfl
@[simp] theorem resetBlock_gen (s : State) : (resetBlock s).gen = Vector.replicate 2 0 := rfl
@[simp] theorem resetBlock_rem (s : State) : (resetBlock s).rem = Vector.replicate 2 0 := rfl
@[simp] theorem resetBlock_dout (s : State) : (resetBlock s).dout = Vector.replicate 64 0 := rfl
@[simp] theorem resetBlock_lcmd (s : State) : (resetBlock s).lcmd = 0 := rfl
@[simp] theorem resetBlock_agenda (s : State) : (resetBlock s).agenda = s.agenda := rfl
@[simp] theorem resetBlock_response (s : State) : (resetBlock s).response = none := rfl
@[simp] theorem resetBlock_wait (s : State) : (resetBlock s).wait = 0 := rfl
@[simp] theorem resetBlock_draws (s : State) : (resetBlock s).draws = s.draws := rfl

end Sys2Proof.Machine
end

