-- ==== Sys2Proof/Laws/Ops.lean ====
section
/-! SUPPORT. What each shared operation can do, said once: the end of a command, the input checks, a command's body, a
host event, and a step. -/

namespace Sys2Proof.Machine

/-- A command ends in its completion or in its error completion, and always in a next state (R180). -/
theorem finish_cases (s : State) (body : Except CmdError State) :
    (∃ t, body = .ok t ∧ finish s body = .next (complete t)) ∨
    (∃ e, body = .error e ∧ finish s body = .next (errorComplete e s)) := by
  cases body with
  | ok t => exact .inl ⟨t, rfl, rfl⟩
  | error e => exact .inr ⟨e, rfl, rfl⟩

@[simp] theorem finish_ok (s t : State) : finish s (.ok t) = .next (complete t) := rfl

@[simp] theorem finish_error (s : State) (e : CmdError) : finish s (.error e) = .next (errorComplete e s) := rfl

/-- The generator's first character is bit 31 of GEN[0] (R189). -/
theorem bitAt_gen_zero (s : State) : bitAt s.gen 0 = s.gen[0].getLsbD 31 := by
  simp [bitAt]

/-- The data commands' length check passes exactly within DMAX. -/
theorem dataLengthError_eq_none (s : State) : dataLengthError s = none ↔ DataReady s := by
  simp [dataLengthError, DataReady, Config.dmax]

theorem dataLengthError_eq_some {s : State} (h : ¬ DataReady s) : dataLengthError s = some ⟨.overflow, s.dlen⟩ := by
  simp only [DataReady, not_le] at h
  simp [dataLengthError, Config.dmax, h]

/-- The CRC input checks pass exactly on ready inputs. -/
theorem crcInputError_eq_none (s : State) : crcInputError s = none ↔ CrcReady s := by
  have hg : s.glen = 0 ↔ s.glen.toNat = 0 := by
    rw [← BitVec.toNat_inj]; simp
  have hd : s.dlen = 0 ↔ s.dlen.toNat = 0 := by
    rw [← BitVec.toNat_inj]; simp
  simp only [crcInputError, CrcReady, Config.dmax, Config.gmax, bitAt_gen_zero, hg, hd]
  split_ifs <;> simp_all
  omega

/-- No output of these capacities is too long (R183). -/
theorem outputLengthError_eq_none (n : Nat) : outputLengthError n = none ↔ n ≤ 2048 := by
  simp [outputLengthError, Config.omax]

/-- A length that fits a register reads back as itself. -/
theorem toNat_lengthWord {n : Nat} (h : n < 2 ^ 32) : (lengthWord n).toNat = n := by
  rw [lengthWord, BitVec.toNat_ofNat, Nat.mod_eq_of_lt h]

@[simp] theorem length_dataBits (s : State) : (dataBits s).length = s.dlen.toNat := length_bitsOf _ _

@[simp] theorem length_genBits (s : State) : (genBits s).length = s.glen.toNat := length_bitsOf _ _

/-- CRC_ENC's body on ready inputs (R103). -/
theorem crcEncode_ready {s : State} (h : CrcReady s) :
    crcEncode s = .ok (writeAux (s.glen.toNat - 1)
      (writeRem (crcEncodeRem (dataBits s) (genBits s))
        (writeDout (dataBits s ++ crcEncodeRem (dataBits s) (genBits s)) s))) := by
  have hn : s.dlen.toNat + s.glen.toNat - 1 ≤ 2048 := by
    obtain ⟨_, _, _, _, _⟩ := h; omega
  simp only [crcEncode, (crcInputError_eq_none s).2 h, (outputLengthError_eq_none _).2 hn]

/-- CRC_VER's body on ready inputs (R104). -/
theorem crcVerify_ready {s : State} (h : CrcReady s) :
    crcVerify s = .ok (writeCrcOk (crcVerifyRem (dataBits s) (genBits s) == 0)
      (writeAux (s.glen.toNat - 1)
        (writeRem (bin (crcVerifyRem (dataBits s) (genBits s)) (s.glen.toNat - 1)) s))) := by
  simp only [crcVerify, (crcInputError_eq_none s).2 h]

/-- HAM_PCOUNT's body within the capacity (R133). -/
theorem hammingCount_ready {s : State} (h : DataReady s) :
    hammingCount s = .ok (writeAux (parityCount s.dlen.toNat) s) := by
  simp only [hammingCount, (dataLengthError_eq_none s).2 h]

/-- What HAM_ENC's body gives when it raises no error (R134). -/
theorem hammingEncode_ok {s t : State} (h : hammingEncode s = .ok t) :
    DataReady s ∧ t = writeAux (parityCount s.dlen.toNat) (writeDout (hammingCode (dataBits s)) s) := by
  simp only [hammingEncode] at h
  split at h
  · cases h
  · next hd =>
    split at h
    · cases h
    · cases h; exact ⟨(dataLengthError_eq_none s).1 hd, rfl⟩

/-- What STUFF's body gives when it raises no error (R151). -/
theorem stuffBody_ok {s t : State} (h : stuffBody s = .ok t) :
    DataReady s ∧ t = writeAux (stuffBits (dataBits s)).2 (writeDout (stuffBits (dataBits s)).1 s) := by
  simp only [stuffBody] at h
  split at h
  · cases h
  · next hd =>
    split at h
    · cases h
    · cases h; exact ⟨(dataLengthError_eq_none s).1 hd, rfl⟩

/-- DESTUFF's body within the capacity: a violation at an index, or the stream without its guards (R153). -/
theorem destuffBody_cases {s : State} (h : DataReady s) :
    (∃ t, destuffBits (dataBits s) = .error t ∧ destuffBody s = .error ⟨.stuffViolation, lengthWord t⟩) ∨
    (∃ x k, destuffBits (dataBits s) = .ok (x, k) ∧ destuffBody s = .ok (writeAux k (writeDout x s))) := by
  cases hd : destuffBits (dataBits s) with
  | error t => exact .inl ⟨t, rfl, by simp only [destuffBody, (dataLengthError_eq_none s).2 h, hd]⟩
  | ok r => exact .inr ⟨r.1, r.2, rfl, by simp only [destuffBody, (dataLengthError_eq_none s).2 h, hd]⟩

/-- One event, as a case of its kind. -/
theorem performAccess_cases (a : Access) (s : State) :
    (inWindow a.addr = false ∧ performAccess a s = { s with response := none }) ∨
    (inWindow a.addr = true ∧ accessTaken a = false ∧ performAccess a s = { s with response := some .busError }) ∨
    (inWindow a.addr = true ∧ accessTaken a = true ∧ a.op = .read ∧
      performAccess a s = { s with response := some (.data (readOffset s (windowOffset a.addr))) }) ∨
    (∃ v, inWindow a.addr = true ∧ accessTaken a = true ∧ a.op = .write v ∧
      performAccess a s = { writeOffset s (windowOffset a.addr) v with response := some .ack }) := by
  unfold performAccess
  cases hw : inWindow a.addr
  · exact .inl ⟨rfl, rfl⟩
  cases ht : accessTaken a
  · exact .inr (.inl ⟨rfl, rfl, rfl⟩)
  cases ho : a.op with
  | read => exact .inr (.inr (.inl ⟨rfl, rfl, rfl, rfl⟩))
  | write v => exact .inr (.inr (.inr ⟨v, rfl, rfl, rfl, rfl⟩))

/-- What a write can do: it is dropped and sets COLL, or is ignored, or issues, or stores (R57, R77). -/
theorem writeOffset_cases (s : State) (off : Nat) (v : Word) :
    (s.status.busy = true ∧ writeOffset s off v = { s with status := statusCollided s.status }) ∨
    (s.status.busy = false ∧ writeOffset s off v = s) ∨
    (s.status.busy = false ∧ regAt off = some .cmd ∧ writeOffset s off v = issue v s) ∨
    (s.status.busy = false ∧ ∃ dlen glen din gen,
      writeOffset s off v = { s with dlen := dlen, glen := glen, din := din, gen := gen }) := by
  unfold writeOffset
  cases hb : s.status.busy
  · simp only [Bool.false_eq_true, if_false]
    cases hr : regAt off with
    | none => exact .inr (.inl ⟨trivial, rfl⟩)
    | some r =>
      cases r with
      | cmd => exact .inr (.inr (.inl ⟨trivial, rfl, rfl⟩))
      | dlen => exact .inr (.inr (.inr ⟨trivial, v, s.glen, s.din, s.gen, rfl⟩))
      | glen => exact .inr (.inr (.inr ⟨trivial, s.dlen, v, s.din, s.gen, rfl⟩))
      | din i => exact .inr (.inr (.inr ⟨trivial, s.dlen, s.glen, s.din.set i v, s.gen, rfl⟩))
      | gen i => exact .inr (.inr (.inr ⟨trivial, s.dlen, s.glen, s.din, s.gen.set i v, rfl⟩))
      | _ => exact .inr (.inl ⟨trivial, rfl⟩)
  · exact .inl ⟨rfl, rfl⟩

/-- What a burst can do: nothing, one bus error or no response, or its first beat with the rest put back. -/
theorem performBurst_cases (beats : List Access) (s : State) :
    performBurst beats s = s ∨
    (∃ r, performBurst beats s = { s with response := r }) ∨
    (∃ b rest agenda, beats = b :: rest ∧ performBurst beats s = performAccess b { s with agenda := agenda }) := by
  unfold performBurst
  split
  · split
    · exact .inl rfl
    · exact .inr (.inr ⟨_, [], s.agenda, rfl, rfl⟩)
    · exact .inr (.inr ⟨_, _, _, rfl, rfl⟩)
  · split
    · exact .inr (.inl ⟨_, rfl⟩)
    · exact .inr (.inl ⟨_, rfl⟩)

/-- A step is the engine's completion step when it is its turn, and the host's next event otherwise (R62, R75). -/
theorem step_cases (s : State) :
    (engineTurn s = true ∧ step s = execute s.lcmd s) ∨ (engineTurn s = false ∧ step s = .next (hostStep s)) := by
  cases h : engineTurn s
  · exact .inr ⟨rfl, by simp [step, h]⟩
  · exact .inl ⟨rfl, by simp [step, h, engineStep]⟩

/-- The word of a command is fetched from LCMD and decoded, or completes with ILLEGAL_CMD (R79). -/
theorem execute_cases (w : Word) (s : State) :
    (∃ i, decode w = .ok i ∧ execute w s = exec i s) ∨
    (∃ d, decode w = .error d ∧ execute w s = .next (errorComplete ⟨.illegalCmd, w⟩ s)) := by
  cases h : decode w with
  | ok i => exact .inl ⟨i, rfl, by simp [execute, h]⟩
  | error d => exact .inr ⟨d, rfl, by simp [execute, h, execIllegal]⟩

/-- `withFetchWord` leaves the engine to move next, with the word in LCMD. -/
@[simp] theorem withFetchWord_lcmd (s : State) (nbits w : Nat) :
    (s.withFetchWord nbits w).lcmd = BitVec.ofNat 32 (w % 2 ^ nbits) := rfl

theorem engineTurn_withFetchWord (s : State) (nbits w : Nat) : engineTurn (s.withFetchWord nbits w) = true := rfl

end Sys2Proof.Machine
end

