-- ==== Sys2Proof/Laws/PerInstr.lean ====
section
/-! SUPPORT. Facts about every command as syntax, one lemma per constructor. -/

namespace Sys2Proof.Laws

/-- The command is well formed, its encoding has RSV = 0, its fields are well formed, and its word is not the zero
word, so that a stray zero store starts no work (R70, R71, 92 D10). -/
def EncodingFormat.Statement (i : Instr) : Prop :=
  i.wf = true ∧ (fieldsOf (encode i)).rsv = 0 ∧ (fieldsOf (encode i)).wf = true ∧ encode i ≠ 0

theorem EncodingFormat.crcEnc : EncodingFormat.Statement .crcEnc := by unfold EncodingFormat.Statement; decide
theorem EncodingFormat.crcVer : EncodingFormat.Statement .crcVer := by unfold EncodingFormat.Statement; decide
theorem EncodingFormat.hamPcount : EncodingFormat.Statement .hamPcount := by unfold EncodingFormat.Statement; decide
theorem EncodingFormat.hamEnc : EncodingFormat.Statement .hamEnc := by unfold EncodingFormat.Statement; decide
theorem EncodingFormat.stuff : EncodingFormat.Statement .stuff := by unfold EncodingFormat.Statement; decide
theorem EncodingFormat.destuff : EncodingFormat.Statement .destuff := by unfold EncodingFormat.Statement; decide
theorem EncodingFormat.clr : EncodingFormat.Statement .clr := by unfold EncodingFormat.Statement; decide

end Sys2Proof.Laws
end

