-- ==== Sys2Proof/Tests/Slice0.lean ====
section
/-! SUPPORT. Tests on small states, each about one word, one access or one step. Expected values are those of
spec/95_test_vectors.md (named by its ids) or are written out from the encoding of R70 and R71. The theorems named
`witness_…` show a concrete state that meets a statement's hypotheses. -/

namespace Sys2Proof.Tests

open Sys2Proof Sys2Proof.Machine

/-! ### Helpers -/

/-- The block after reset with a bit-string in DIN and one in GEN. -/
def loaded (d g : Bits) : State :=
  { State.reset with
    din := pack d 32, dlen := lengthWord d.length, gen := pack g 2, glen := lengthWord g.length }

/-- The bit-string of the `n` low bits of a number, most significant first. -/
def str (n : Nat) (x : Nat) : Bits := bin x n

/-- A state with the word issued, whose completion is the next step. -/
def issued (w : Nat) (s : State) : State := s.withFetchWord 32 w

/-- The state after one step. -/
def after (s : State) : State :=
  match step s with
  | .next t => t
  | .fault _ => s
  | .refused _ => s

/-- "1101011011" and "10011" of vector W1. -/
def w1 : State := loaded (str 10 0b1101011011) (str 5 0b10011)

/-- The codeword of W1 as a received word (W2). -/
def w2 : State := loaded (str 14 0b11010110111110) (str 5 0b10011)

/-- A block in which `w` is issued, with `n` events to pass before its completion and these events pending. -/
def running (w : Nat) (n : Nat) (pending : List HostEvent) : State :=
  { issued w State.reset with wait := n, agenda := pending }

/-- An idle block with these events pending. -/
def pendingOnly (pending : List HostEvent) : State := { State.reset with agenda := pending }

/-! ### Well-formedness: an ill-formed term for each check -/

theorem test_wf_refuses_reserved_bits : CommandWord.wf { op := 0x1, rsv := 1 } = false := by decide
theorem test_wf_refuses_op_zero : CommandWord.wf { op := 0x0, rsv := 0 } = false := by decide
theorem test_wf_refuses_op_seven : CommandWord.wf { op := 0x7, rsv := 0 } = false := by decide
theorem test_wf_refuses_op_fourteen : CommandWord.wf { op := 0xE, rsv := 0 } = false := by decide
theorem test_wf_takes_clr : CommandWord.wf { op := 0xF, rsv := 0 } = true := by decide

/-! ### Decoding: words written out bit by bit from R70 and R71 -/

theorem test_decode_crc_enc : decode 0b00000000000000000000000000000001#32 = .ok .crcEnc := by decide
theorem test_decode_crc_ver : decode 0b00000000000000000000000000000010#32 = .ok .crcVer := by decide
theorem test_decode_ham_pcount : decode 0b00000000000000000000000000000011#32 = .ok .hamPcount := by decide
theorem test_decode_ham_enc : decode 0b00000000000000000000000000000100#32 = .ok .hamEnc := by decide
theorem test_decode_stuff : decode 0b00000000000000000000000000000101#32 = .ok .stuff := by decide
theorem test_decode_destuff : decode 0b00000000000000000000000000000110#32 = .ok .destuff := by decide
theorem test_decode_clr : decode 0b00000000000000000000000000001111#32 = .ok .clr := by decide
/-- CT2 to CT8: illegal words. -/
theorem test_decode_rejects :
    decode 0x00000000#32 = .error .noSuchOp ∧ decode 0x00000007#32 = .error .noSuchOp ∧
    decode 0x00000010#32 = .error .reservedNotZero ∧ decode 0x0000001F#32 = .error .reservedNotZero ∧
    decode 0xFFFFFFFF#32 = .error .reservedNotZero := by decide
theorem test_table_word : decodeTableWord 32 0xF = some .clr ∧ decodeTableWord 32 0x11 = none := by decide

/-! ### The commands, by the vectors of the spec -/

/-- W1 (R103). -/
theorem test_crc_enc_w1 : (after (issued 1 w1)).dout[0] = 0xD6F80000#32 ∧ (after (issued 1 w1)).rem[0] = 0xE0000000#32
    ∧ (after (issued 1 w1)).olen = 14 := by decide +kernel
/-- CE9: a generator whose first bit is 0. -/
theorem test_crc_enc_leading_zero :
    statusWord (after (issued 1 (loaded (str 4 0b1011) (str 4 0b0101)))).status = 0x00000606#32 := by decide +kernel
/-- W2, valid. -/
theorem test_crc_ver_valid : statusWord (after (issued 2 w2)).status = 0x0000000A#32 := by decide +kernel
/-- W2, last bit flipped. -/
theorem test_crc_ver_flipped :
    (after (issued 2 (loaded (str 14 0b11010110111111) (str 5 0b10011)))).rem[0] = 0x10000000#32 := by decide +kernel
/-- R133: the last length with r = 4, and the first with r = 5. -/
theorem test_ham_pcount_steps : (after (issued 3 { State.reset with dlen := 11 })).aux = 4 ∧
    (after (issued 3 { State.reset with dlen := 12 })).aux = 5 := by decide +kernel
/-- DLEN = 1025 fails with OVERFLOW (R133). -/
theorem test_ham_pcount_overflow :
    statusWord (after (issued 3 { State.reset with dlen := 1025 })).status = 0x00000506#32 ∧
    (after (issued 3 { State.reset with dlen := 1025 })).errInfo = 0x00000401#32 := by decide +kernel
/-- HE1. -/
theorem test_ham_enc_he1 : (after (issued 4 (loaded (str 7 0b1011001) []))).dout[0] = 0xA9C00000#32 := by
  decide +kernel
/-- HE8. -/
theorem test_ham_enc_he8 : (after (issued 4 (loaded (str 8 0b11010110) []))).dout[0] = 0xDB900000#32 := by
  decide +kernel
/-- ST4: one guard in a run of ten. -/
theorem test_stuff_st4 : (after (issued 5 (loaded (str 10 0x3FF) []))).dout[0] = 0xFBE00000#32 ∧
    (after (issued 5 (loaded (str 10 0x3FF) []))).olen = 11 := by decide +kernel
/-- ST8: two guards. -/
theorem test_stuff_st8 : (after (issued 5 (loaded (str 11 0b11111011111) []))).dout[0] = 0xF9F00000#32 ∧
    (after (issued 5 (loaded (str 11 0b11111011111) []))).aux = 2 := by decide +kernel
/-- DS6: the gate stays closed after a guard. -/
theorem test_destuff_ds6 : (after (issued 6 (loaded (str 13 0b1111101111101) []))).dout[0] = 0xFFD00000#32 := by
  decide +kernel
/-- DS12: the second guard is missing. -/
theorem test_destuff_ds12 :
    statusWord (after (issued 6 (loaded (str 13 0b1111100111111) []))).status = 0x00000706#32 ∧
    (after (issued 6 (loaded (str 13 0b1111100111111) []))).errInfo = 12 := by decide +kernel
/-- CT1: CLR leaves STATUS = 0x2 and the inputs zero. -/
theorem test_clr_ct1 : statusWord (after (issued 15 w1)).status = 0x00000002#32 ∧ (after (issued 15 w1)).dlen = 0 ∧
    (after (issued 15 w1)).din[0] = 0 := by decide +kernel
/-- CT6: an illegal word with OP 0xF does not clear. -/
theorem test_illegal_ct6 : statusWord (after (issued 0x1F w1)).status = 0x00000106#32 ∧
    (after (issued 0x1F w1)).errInfo = 0x1F#32 ∧ (after (issued 0x1F w1)).dlen = 10 := by decide +kernel

/-! ### The window and the life cycle -/

/-- BL1 to BL4. -/
theorem test_window_reads : readOffset w1 0x000 = 0x4C430007#32 ∧ readOffset w1 0x004 = 0 ∧
    readOffset w1 0x020 = 0x400#32 ∧ readOffset w1 0x030 = 0 ∧ readOffset w1 0x100 = 0xD6C00000#32 := by decide +kernel
/-- R60: the ends of the buffers. -/
theorem test_window_ends : regAt 0x17C = some (.din 31) ∧ regAt 0x180 = some (.gen 0) ∧ regAt 0x188 = none ∧
    regAt 0x2FC = some (.dout 63) ∧ regAt 0x300 = none ∧ regAt 0x02C = none := by decide
/-- BL5, BL6: read-only words ignore writes. -/
theorem test_read_only_write : writeOffset w1 0x008 0xFFFFFFFF#32 = w1 ∧ writeOffset w1 0x200 1 = w1 := by
  decide +kernel
/-- BL10: a write while busy is dropped and sets COLL. -/
theorem test_busy_write : (writeOffset (running 3 1 []) 0x00C 12).dlen = 0 ∧
    statusWord (writeOffset (running 3 1 []) 0x00C 12).status = 0x00000011#32 := by decide +kernel
/-- BL13 and R74: an issue clears the result state and sets only BUSY. -/
theorem test_issue_status : statusWord (writeOffset w1 0x004 1).status = 0x00000001#32 ∧
    (writeOffset w1 0x004 1).lcmd = 1 := by decide +kernel
/-- BL14: reset while busy. -/
theorem test_reset_while_busy : blockOf (after (running 1 1 [.reset none])) = blockOf State.reset := by decide +kernel
/-- R82: the expansion of COPY, one read and one write per word, in that order. -/
theorem test_copy_expansion : expandLine 0 (.copy .dout .din 2 5) =
    [.rd (.offset 0x200) 5, .wr (.offset 0x100) (.temp 5), .rd (.offset 0x204) 6, .wr (.offset 0x104) (.temp 6)] := by
  decide
/-- R82: the expansion of WAIT with one STATUS read, and of ISSUE. -/
theorem test_wait_expansion : expandLine 0 (.wait 0) =
    [.rd (.named .status) 0, .claimBit 0 4 false, .claimBit 0 1 true] ∧
    expandLine 0 (.issue .clr) = [.wr (.named .cmd) (.lit 0x0000000F#32)] := by decide

/-! ### Witnesses of the statements' hypotheses -/

/-- The invariant of a state in which a command has been issued. -/
theorem inv_running : Inv (running 3 1 []) where
  err_iff := by decide
  code_legal := by decide
  busy_clear _ := ⟨⟨rfl, rfl, rfl, rfl⟩, rfl, rfl, rfl, rfl, rfl⟩
  failed_clear h := by cases h
  info_clear _ := rfl
  olen_le := by decide
  dout_tail k _ _ := bitAt_zero k
  rem_tail k _ _ := bitAt_zero k
  crcOk_rem h := by cases h

theorem witness_DecodeAndEncodeAgree : Instr.clr.wf = true ∧ decode 0x0000000F#32 = .ok .clr ∧ 0xF < 2 ^ 32 := by decide

theorem witness_WindowMap : (0x02C < 0x1000 ∧ 0x02C % 4 = 0) ∧ (0xFFC < 0x1000 ∧ 0xFFC % 4 = 0) := by decide

theorem witness_HammingLayoutFacts : 1 ≤ 1 ∧ 1 ≤ 3 ∧ 3 ≤ 1 + parityCount 1 ∧ 1 < parityCount 1 := by decide

theorem witness_HammingCodewordClosedForm : 0 < parityCount [true].length ∧ 3 < parityCount (str 7 89).length := by
  decide

theorem witness_OneGuardPerLongRun : 5 ≤ 5 ∧ (stuffBits (List.replicate 5 true)).2 = 1 := by decide

theorem witness_FirstFailingCheckIsReported : decode (running 0x11 0 []).lcmd = .error .reservedNotZero ∧
    reportedError .crcEnc w1 = none ∧ reportedError .crcEnc State.reset = some ⟨.invalidGenLength, 0⟩ := by
  decide +kernel

theorem witness_OnlyListedOutputsAreWritten : ∃ t, exec .hamEnc (loaded (str 7 89) []) = .next t := ⟨_, rfl⟩

theorem witness_StepRunsTheDecodedCommand :
    ((running 4 0 [.reset none]).status.busy = true ∧ (running 4 0 [.reset none]).wait = 0 ∧
      decode (running 4 0 [.reset none]).lcmd = .ok .hamEnc) ∧
    ((running 15 2 []).status.busy = true ∧ (running 15 2 []).agenda = [] ∧ decode (running 15 2 []).lcmd = .ok .clr) := by
  decide

theorem witness_IdleEngineDoesNothing : w1.status.busy = false ∧ w1.agenda = [] := by decide

theorem witness_CmdWriteIssues :
    (pendingOnly [.access (memWrite (Config.base + 0x004) 0x10)]).status.busy = false ∧
    (pendingOnly [.access (memWrite (Config.base + 0x004) 0x10)]).agenda =
      .access (memWrite (Config.base + 0x004) 0x10) :: [] := ⟨rfl, rfl⟩

theorem witness_BusyWriteOnlySetsColl :
    ((running 1 1 [.access ⟨Config.base + 0xFFC, 32, .write 7⟩]).status.busy = true ∧
      (running 1 1 [.access ⟨Config.base + 0xFFC, 32, .write 7⟩]).wait ≠ 0 ∧ 0xFFC < 0x1000 ∧ 0xFFC % 4 = 0) ∧
    ((running 1 1 [.access ⟨Config.base + 0xFFF, 32, .write 7⟩]).status.busy = true ∧ 0xFFF < 0x1000 ∧ 0xFFF % 4 ≠ 0) :=
  ⟨⟨rfl, by decide, by decide, by decide⟩, rfl, by decide, by decide⟩

theorem witness_BusErrorChangesNoRegister :
    engineTurn (running 1 1 [.access ⟨Config.base + 0x00E, 32, .read⟩]) = false ∧ 0x00E % 4 ≠ 0 ∧
    engineTurn (pendingOnly [.access ⟨Config.base + 0, 8, .write 7⟩]) = false ∧
    (⟨Config.base + 0, 8, .write 7⟩ : Access).width ≠ 32 := ⟨rfl, by decide, rfl, by decide⟩

theorem witness_ReadReturnsTheWordOnly :
    engineTurn (running 1 1 [.access (memRead (Config.base + 0xFFC))]) = false ∧
    engineTurn (pendingOnly [.access (memRead (Config.base + 0))]) = false := ⟨rfl, rfl⟩

theorem witness_BusyReadsShowClearedResults : Inv (running 3 1 []) ∧ (running 3 1 []).status.busy = true :=
  ⟨inv_running, rfl⟩

/-- With a reset pending, and with none. -/
theorem witness_BusyFallsAndUnresetCommandsComplete :
    (running 3 5 [.reset none, .burst []]).status.busy = true ∧
    ((running 3 1 [.access (memRead 0), .burst []]).status.busy = true ∧
      ∀ e ∈ (running 3 1 [.access (memRead 0), .burst []]).agenda, notReset e = true) := ⟨rfl, rfl, by decide⟩

theorem witness_ResultsDoNotDependOnLatency :
    (running 3 2 [.access (memRead 0), .burst []]).status.busy = true ∧
    (∀ e ∈ (running 3 2 [.access (memRead 0), .burst []]).agenda, notReset e = true) ∧
    ∃ u, engineStep (running 3 2 [.access (memRead 0), .burst []]) = .next u := ⟨rfl, by decide, _, rfl⟩

theorem witness_WriteAndCompletionBothOrders :
    ((running 3 0 [.access (memWrite (Config.base + 0x00C) 12)]).wait = 0 ∧
      ∃ u, engineStep (running 3 0 [.access (memWrite (Config.base + 0x00C) 12)]) = .next u) ∧
    ((running 3 1 [.access (memWrite (Config.base + 0x00C) 12)]).wait = 1 ∧
      ∃ u, engineStep (running 3 1 [.access (memWrite (Config.base + 0x00C) 12)]) = .next u) :=
  ⟨⟨rfl, _, rfl⟩, rfl, _, rfl⟩

theorem witness_IdleLatchHasNoEffect : w1.status.busy = false ∧ step w1 = .next w1 := ⟨rfl, rfl⟩

theorem witness_BurstIsOneAccessPerBeat :
    engineTurn (pendingOnly [.burst [memRead Config.base, memRead (Config.base + 4)]]) = false ∧
    (∀ a ∈ [memRead Config.base, memRead (Config.base + 4)], a.width = 32) ∧
    engineTurn (pendingOnly [.burst [⟨Config.base, 64, .read⟩]]) = false ∧
    (∃ a ∈ [(⟨Config.base, 64, .read⟩ : Access)], a.width ≠ 32) ∧
    (∃ a ∈ [(⟨Config.base, 64, .read⟩ : Access)], inWindow a.addr = true) := by
  refine ⟨rfl, ?_, rfl, ⟨_, List.mem_singleton_self _, by decide⟩, ⟨_, List.mem_singleton_self _, ?_⟩⟩
  · simp [memRead]
  · simp [inWindow, Config.windowSize]

theorem witness_IdleWriteByAccess :
    ((pendingOnly [.access (memWrite (Config.base + 0x004) 1)]).status.busy = false ∧ 0x004 % 4 = 0) ∧
    ((pendingOnly [.access (memWrite (Config.base + 0x184) 1)]).status.busy = false ∧ 0x184 % 4 = 0 ∧ 0x184 < 0x188) ∧
    ((pendingOnly [.access (memWrite (Config.base + 0xFFC) 1)]).status.busy = false ∧ 0xFFC % 4 = 0 ∧ 0xFFC < 0x1000) :=
  ⟨⟨rfl, by decide⟩, ⟨rfl, by decide, by decide⟩, rfl, by decide, by decide⟩

/-- For CrcEncodeResult, CrcVerifyResult and LengthOneGeneratorIsIdentity: the least and the greatest lengths CRC_ENC and
CRC_VER take, and a generator of length 1. -/
theorem witness_CrcReady :
    CrcReady w1 ∧ CrcReady (loaded [false] [true]) ∧ (loaded [false] [true]).glen = 1 ∧
    CrcReady { State.reset with dlen := 1024, glen := 64, gen := Vector.replicate 2 0x80000000#32 } := by
  unfold CrcReady; decide +kernel

theorem witness_ModDivFollowsItsPasses : bitlen 9 < bitlen 19 ∧ bitlen 19 ≤ bitlen 0b10110000 := by decide

theorem witness_ModDivIsThePolynomialRemainder : 1 ≤ 19 ∧ bitlen 15 < bitlen 19 ∧ bitlen 0 < bitlen 1 := by decide

theorem witness_VerifyAcceptsEncodedWord :
    (str 5 0b10011).headD false = true ∧ CrcReady w1 ∧
    (∃ t, exec .crcEnc w1 = .next t ∧ t.olen.toNat ≤ 1024 ∧ w2.glen = w1.glen ∧ w2.gen = w1.gen ∧ w2.dlen = t.olen ∧
      bitsOf w2.din t.olen.toNat = bitsOf t.dout t.olen.toNat) := by
  refine ⟨by decide, by unfold CrcReady; decide +kernel, _, rfl, ?_⟩
  decide +kernel

theorem witness_SingleBitFlipDetection : modDiv 0b11010110111110 0b10011 = 0 ∧ (∀ j < 6, 0b10011 ≠ 2 ^ j) := by
  decide +kernel

/-- W2's codeword verifies, and the same word with its last, or its first, character flipped. -/
theorem witness_SingleBitFlipDetection_block : CrcReady w2 ∧ (∃ t, exec .crcVer w2 = .next t ∧ t.status.crcOk = true) ∧
    dataBits (loaded (str 14 0b11010110111111) (str 5 0b10011)) = (dataBits w2).set 13 (!(dataBits w2).getD 13 false) ∧
    dataBits (loaded (str 14 0b01010110111110) (str 5 0b10011)) = (dataBits w2).set 0 (!(dataBits w2).getD 0 false) := by
  refine ⟨by unfold CrcReady; decide +kernel, ⟨_, rfl, ?_⟩, ?_, ?_⟩ <;> decide +kernel

/-- CV7's codeword under the generator "10", which has a single '1' bit. -/
theorem witness_SingleBitFlipDetection_single : CrcReady (loaded (str 5 0b10110) (str 2 0b10)) ∧
    (∃ t, exec .crcVer (loaded (str 5 0b10110) (str 2 0b10)) = .next t ∧ t.status.crcOk = true) ∧
    val (genBits (loaded (str 5 0b10110) (str 2 0b10))) = 2 ^ 1 := by
  refine ⟨by unfold CrcReady; decide +kernel, ⟨_, rfl, ?_⟩, ?_⟩ <;> decide +kernel

/-- For ParityCountResult, HammingEncodeResult, StuffResult and ViolationIsAMissingGuard: the least and the greatest
lengths of the commands outside the CRC family. -/
theorem witness_DataReady : DataReady State.reset ∧ DataReady { State.reset with dlen := 1024 } := by
  unfold DataReady; decide

theorem witness_ParityCountIsLeast : (2 ^ (4 - 1) + 1 ≤ 5 + 4 ∧ 5 + 4 + 1 ≤ 2 ^ 4) ∧
    (2 ^ (4 - 1) + 1 ≤ 11 + 4 ∧ 11 + 4 + 1 ≤ 2 ^ 4) := by decide

theorem witness_DestuffResult : DataReady (loaded (str 7 0b1111100) []) ∧
    destuffBits (dataBits (loaded (str 7 0b1111100) [])) = .ok (str 6 0b111110, 1) := by
  unfold DataReady; decide +kernel

theorem witness_StuffingRoundTrip : destuffBits (str 7 0b1111100) = .ok (str 6 0b111110, 1) ∧
    destuffBits (str 6 0b111111) = .error 5 := by decide +kernel

theorem witness_DestuffUndoesStuffOnTheBlock :
    ∃ t, exec .stuff (loaded (str 6 0b111110) []) = .next t ∧ t.olen.toNat ≤ 1024 ∧
      (loaded (str 7 0b1111100) []).dlen = t.olen ∧
      bitsOf (loaded (str 7 0b1111100) []).din t.olen.toNat = bitsOf t.dout t.olen.toNat := by
  refine ⟨_, rfl, ?_⟩
  decide +kernel

/-- A stuffed stream that no longer fits DIN (ST10). -/
theorem witness_DestuffUndoesStuffOnTheBlock_long :
    (match exec .stuff { State.reset with dlen := 1024, din := Vector.replicate 32 0xFFFFFFFF#32 } with
      | .next t => decide (1024 < t.olen.toNat)
      | .fault _ => false
      | .refused _ => false) = true := by
  decide +kernel

/-- A missing guard within the stream, and one due at its end. -/
theorem witness_ViolationIsAMissingGuard :
    destuffBits (dataBits (loaded (str 6 0b111111) [])) = .error 5 ∧
    destuffBits (dataBits (loaded (str 5 0b11111) [])) = .error 5 := by decide +kernel

theorem witness_ResetValues : ∃ t, exec .clr w1 = .next t := ⟨_, rfl⟩

theorem witness_ResetTakesResetValues : engineTurn (running 1 1 [.reset (some (memRead 0))]) = false ∧
    engineTurn (pendingOnly [.reset none]) = false := by decide

/-- An issued command that fails, for the statements about errors. -/
theorem witness_ErrorCompletionEffect : ResultsClear (issued 1 State.reset) ∧
    reportedError .crcEnc (issued 1 State.reset) = some ⟨.invalidGenLength, 0⟩ ∧
    reportedError .destuff (issued 6 (loaded (str 5 0b11111) [])) = some ⟨.stuffViolation, 5⟩ := by
  unfold ResultsClear OutputsClear; decide +kernel

theorem witness_SuccessStatusWord : ResultsClear (issued 2 w2) ∧ reportedError .crcVer (issued 2 w2) = none ∧
    modDiv (val (dataBits w2)) (val (genBits w2)) = 0 ∧ reportedError .clr (issued 15 w2) = none := by
  unfold ResultsClear OutputsClear; decide +kernel

theorem witness_IllegalWordReportsItself : (running 0x10 0 []).status.busy = true ∧ (running 0x10 0 []).wait = 0 ∧
    ResultsClear (running 0x10 0 []) ∧ (fieldsOf (running 0x10 0 []).lcmd).wf = false := by
  unfold ResultsClear OutputsClear; decide +kernel

theorem witness_InputStateIsKept : ∃ t, exec .crcVer w2 = .next t := ⟨_, rfl⟩

theorem witness_BitsPastTheLengthsAreIgnored :
    bitsOf (w1.din.set 31 5) w1.dlen.toNat = dataBits w1 ∧ bitsOf (w1.gen.set 1 5) w1.glen.toNat = genBits w1 ∧
    ∃ t, exec .crcEnc w1 = .next t := ⟨by decide +kernel, by decide +kernel, _, rfl⟩

theorem witness_NonCrcCommandsIgnoreTheGenerator : ∃ t, exec .hamPcount w1 = .next t := ⟨_, rfl⟩

theorem witness_StepKeepsInvariant : Inv (running 3 1 []) ∧ ∃ t, step (running 3 1 []) = .next t :=
  ⟨inv_running, _, rfl⟩

theorem witness_RunsKeepInvariant : Inv (running 3 1 []) := inv_running

theorem witness_IssueThenWaitRunsTheCommand :
    ({ block := w1, temps := [], claims := true, log := [] } : HostRun).block.status.busy = false := rfl

theorem witness_LoadAndCopyStoreTheirBits :
    w1.status.busy = false ∧ (List.replicate 1024 true).length ≤ 1024 ∧ (List.replicate 64 true).length ≤ 64 ∧
    (32 ≤ bufferSize .dout ∧ 2 ≤ bufferSize .gen ∧ 2 ≤ bufferSize .rem ∧ 32 ≤ bufferSize .din) := by
  refine ⟨rfl, ?_, by decide, by decide⟩
  rw [List.length_replicate]

/-- The first address above the window, single and as a burst's only beat; there is one below it unless BASE is 0. -/
theorem witness_AccessOutsideTheWindowChangesNothing :
    engineTurn (pendingOnly [.access ⟨Config.base + 0x1000, 32, .write 1⟩]) = false ∧
    engineTurn (running 1 1 [.burst [⟨Config.base + 0x1000, 64, .read⟩]]) = false ∧
    Config.base + 0x1000 ≤ Config.base + 0x1000 := ⟨rfl, rfl, Nat.le_refl _⟩

end Sys2Proof.Tests
end

section
/-! What a read of the window returns: the map of R20 in both directions, and a read as the word of a register or as
zero at a reserved offset (R20, R60). -/

namespace Sys2Proof.Machine

/-- The window's map finds each register at its own offset (R20). -/
@[simp] theorem regAt_offsetOf (r : WinReg) : regAt (offsetOf r) = some r := by
  cases r with
  | din i | gen i | rem i | dout i => fin_cases i <;> rfl
  | _ => rfl

/-- The reserved offsets, by R20's ranges. -/
def Reserved (off : Nat) : Prop :=
  (0x02C ≤ off ∧ off < 0x100) ∨ (0x188 ≤ off ∧ off < 0x190) ∨ (0x198 ≤ off ∧ off < 0x200) ∨ 0x300 ≤ off

/-- The window's map finds nothing at a reserved offset (R60). -/
theorem regAt_of_reserved {off : Nat} (h : Reserved off) : regAt off = none := by
  unfold Reserved at h
  unfold regAt
  iterate 11 rw [if_neg (by omega)]
  iterate 4 rw [dif_neg (by omega)]

/-- R20's table has a register at every aligned offset outside its reserved ranges. -/
theorem exists_offsetOf_of_not_reserved {off : Nat} (ha : off % 4 = 0) (h : ¬ Reserved off) :
    ∃ r, offsetOf r = off := by
  have ranges : off < 0x02C ∨ (0x100 ≤ off ∧ off < 0x180) ∨ (0x180 ≤ off ∧ off < 0x188) ∨
      (0x190 ≤ off ∧ off < 0x198) ∨ (0x200 ≤ off ∧ off < 0x300) := by
    unfold Reserved at h; omega
  obtain hlow | hdin | hgen | hrem | hdout := ranges
  · have single : off = 0x000 ∨ off = 0x004 ∨ off = 0x008 ∨ off = 0x00C ∨ off = 0x010 ∨ off = 0x014 ∨
        off = 0x018 ∨ off = 0x01C ∨ off = 0x020 ∨ off = 0x024 ∨ off = 0x028 := by omega
    obtain h | h | h | h | h | h | h | h | h | h | h := single
    exacts [⟨.id, h.symm⟩, ⟨.cmd, h.symm⟩, ⟨.status, h.symm⟩, ⟨.dlen, h.symm⟩, ⟨.glen, h.symm⟩, ⟨.olen, h.symm⟩,
      ⟨.aux, h.symm⟩, ⟨.errInfo, h.symm⟩, ⟨.capd, h.symm⟩, ⟨.capg, h.symm⟩, ⟨.capo, h.symm⟩]
  · exact ⟨.din ⟨(off - 0x100) / 4, by omega⟩, by simp only [offsetOf]; omega⟩
  · exact ⟨.gen ⟨(off - 0x180) / 4, by omega⟩, by simp only [offsetOf]; omega⟩
  · exact ⟨.rem ⟨(off - 0x190) / 4, by omega⟩, by simp only [offsetOf]; omega⟩
  · exact ⟨.dout ⟨(off - 0x200) / 4, by omega⟩, by simp only [offsetOf]; omega⟩

/-- An aligned offset is the offset of a register, or it is reserved (R20, R60). -/
theorem aligned_offset_cases {off : Nat} (ha : off % 4 = 0) : (∃ r, offsetOf r = off) ∨ Reserved off := by
  by_cases h : Reserved off
  · exact .inr h
  · exact .inl (exists_offsetOf_of_not_reserved ha h)

/-- A read at a register's offset returns that register's word. -/
@[simp] theorem readOffset_offsetOf (s : State) (r : WinReg) : readOffset s (offsetOf r) = readReg s r := by
  simp only [readOffset, regAt_offsetOf]

/-- A read at a reserved offset returns zero (R51, R56). -/
theorem readOffset_of_reserved (s : State) {off : Nat} (h : Reserved off) : readOffset s off = 0 := by
  simp only [readOffset, regAt_of_reserved h]

end Sys2Proof.Machine
end

section
/-! The words of the window after reset and after CLR (R42). -/

namespace Sys2Proof.Machine

/-- R42's column of reset values, by offset: the four constants, and zero everywhere else. -/
def resetWord (off : Nat) : Word :=
  if off = 0x000 then 0x4C430007#32 else if off = 0x020 then 0x00000400#32
  else if off = 0x024 then 0x00000040#32 else if off = 0x028 then 0x00000800#32 else 0

/-- Past the constants every reset value is zero; all buffers lie there. -/
theorem resetWord_of_lt {off : Nat} (h : 0x028 < off) : resetWord off = 0 := by
  unfold resetWord
  rw [if_neg (by omega), if_neg (by omega), if_neg (by omega), if_neg (by omega)]

/-- The constants stand at no reserved offset. -/
theorem resetWord_of_reserved {off : Nat} (h : Reserved off) : resetWord off = 0 :=
  resetWord_of_lt (by unfold Reserved at h; omega)

theorem readReg_reset (r : WinReg) : readReg State.reset r = resetWord (offsetOf r) := by
  cases r with
  | din i | gen i | rem i | dout i =>
    rw [resetWord_of_lt (by simp only [offsetOf]; omega)]
    simp [readReg, State.reset]
  | _ => rfl

/-- Every aligned offset, reserved or not, reads after reset as R42 says. -/
theorem readOffset_reset {off : Nat} (ha : off % 4 = 0) : readOffset State.reset off = resetWord off := by
  obtain ⟨r, rfl⟩ | hres := aligned_offset_cases ha
  · rw [readOffset_offsetOf, readReg_reset]
  · rw [readOffset_of_reserved _ hres, resetWord_of_reserved hres]

/-- CLR raises no error: it clears the registers and completes (R170). -/
@[simp] theorem exec_clr (s : State) : exec .clr s = .next (complete (clearRegisters s)) := rfl

/-- CLR leaves DONE alone set, whatever STATUS was before (R170). -/
theorem statusCompleted_statusCleared (st : Status) :
    statusCompleted (statusCleared st) = { Status.reset with done := true } := rfl

theorem statusWord_clr (st : Status) : statusWord (statusCompleted (statusCleared st)) = 0x00000002#32 := by
  rw [statusCompleted_statusCleared]
  decide

/-- Every register but STATUS reads after CLR as it does after reset (R42). -/
theorem readReg_clr (s : State) {r : WinReg} (hr : r ≠ .status) :
    readReg (complete (clearRegisters s)) r = readReg State.reset r := by
  cases r with
  | status => exact absurd rfl hr
  | _ => rfl

/-- Every aligned offset but that of STATUS reads after CLR as it does after reset (R42). -/
theorem readOffset_clr (s : State) {off : Nat} (ha : off % 4 = 0) (hoff : off ≠ 0x008) :
    readOffset (complete (clearRegisters s)) off = readOffset State.reset off := by
  obtain ⟨r, rfl⟩ | hres := aligned_offset_cases ha
  · have hr : r ≠ .status := by
      rintro rfl
      exact hoff rfl
    rw [readOffset_offsetOf, readOffset_offsetOf, readReg_clr s hr]
  · rw [readOffset_of_reserved _ hres, readOffset_of_reserved _ hres]

/-- Settles O18: each hard-wired word is read at its register's offset. -/
theorem hardWiredWords : Obligations.HardWiredWords := fun s =>
  ⟨readOffset_offsetOf s .id, readOffset_offsetOf s .capd, readOffset_offsetOf s .capg,
    readOffset_offsetOf s .capo, readOffset_offsetOf s .cmd⟩

/-- Settles O40: every aligned offset is a register's or reserved, and CLR leaves every register but STATUS at its
reset value. -/
theorem resetValues : Obligations.ResetValues := by
  refine ⟨fun off _ ha => readOffset_reset ha, rfl, fun s t hclr => ?_⟩
  obtain rfl : complete (clearRegisters s) = t := by simpa using hclr
  have hstatus : readOffset (complete (clearRegisters s)) 0x008 = 0x00000002#32 :=
    (readOffset_offsetOf _ .status).trans (statusWord_clr s.status)
  exact ⟨rfl, hstatus, fun off ha hoff => readOffset_clr s ha hoff⟩

end Sys2Proof.Machine
end

section
/-! What a write of the window does while BUSY = 0, by the kind of the word it reaches (R56, R57): rules for the one
register written, then for the offset, then for the step that performs the access. -/

namespace Sys2Proof.Machine

/-! ### A write of one register -/

/-- The read-write registers (R57). -/
def ReadWrite : WinReg → Prop
  | .dlen | .glen | .din _ | .gen _ => True
  | _ => False

/-- The offsets of the read-write registers, by R20's table. -/
theorem readWrite_iff_offsetOf (r : WinReg) :
    ReadWrite r ↔ offsetOf r = 0x00C ∨ offsetOf r = 0x010 ∨ (0x100 ≤ offsetOf r ∧ offsetOf r < 0x188) := by
  cases r with
  | dlen | glen => exact iff_of_true trivial (by decide)
  | din i | gen i => exact iff_of_true trivial (by simp only [offsetOf]; omega)
  | rem i | dout i => exact iff_of_false id (by simp only [offsetOf]; omega)
  | _ => exact iff_of_false id (by decide)

/-- A write to a read-write register stores all 32 bits (R57). -/
theorem readReg_writeReg_same (s : State) (v : Word) {r : WinReg} (hr : ReadWrite r) :
    readReg (writeReg s v r) r = v := by
  cases r with
  | dlen | glen => rfl
  | din i | gen i => simp [writeReg, readReg]
  | _ => exact hr.elim

/-- A write to a read-write register keeps the word of every other register, the rest of its own buffer included. -/
theorem readReg_writeReg_other (s : State) (v : Word) {r r' : WinReg} (hr : ReadWrite r) (hne : r' ≠ r) :
    readReg (writeReg s v r) r' = readReg s r' := by
  cases r with
  | dlen | glen =>
    cases r' with
    | dlen | glen => simp_all [writeReg, readReg]
    | _ => rfl
  | din i =>
    cases r' with
    | din j => exact Vector.getElem_set_ne i.isLt j.isLt fun h => hne (congrArg WinReg.din (Fin.ext h.symm))
    | _ => rfl
  | gen i =>
    cases r' with
    | gen j => exact Vector.getElem_set_ne i.isLt j.isLt fun h => hne (congrArg WinReg.gen (Fin.ext h.symm))
    | _ => rfl
  | _ => exact hr.elim

/-- A write to a read-write register is no issue: the latch and STATUS stay. -/
theorem writeReg_lcmd_status (s : State) (v : Word) {r : WinReg} (hr : ReadWrite r) :
    (writeReg s v r).lcmd = s.lcmd ∧ (writeReg s v r).status = s.status := by
  cases r with
  | dlen | glen | din i | gen i => exact ⟨rfl, rfl⟩
  | _ => exact hr.elim

/-- A write to a read-only register is ignored (R57). -/
theorem writeReg_readOnly (s : State) (v : Word) {r : WinReg} (hcmd : r ≠ .cmd) (hr : ¬ ReadWrite r) :
    writeReg s v r = s := by
  cases r with
  | cmd => exact absurd rfl hcmd
  | dlen | glen | din i | gen i => exact absurd trivial hr
  | _ => rfl

/-! ### A write at an offset -/

/-- While BUSY = 0 a write at a register's offset is the write of that register. -/
theorem writeOffset_offsetOf {s : State} (hb : s.status.busy = false) (r : WinReg) (v : Word) :
    writeOffset s (offsetOf r) v = writeReg s v r := by
  simp [writeOffset, hb]

/-- While BUSY = 0 a reserved offset ignores a write (R56). -/
theorem writeOffset_of_reserved {s : State} (hb : s.status.busy = false) {off : Nat} (h : Reserved off) (v : Word) :
    writeOffset s off v = s := by
  simp [writeOffset, hb, regAt_of_reserved h]

/-- No write touches what the host has still to do. -/
@[simp] theorem writeOffset_agenda (s : State) (off : Nat) (v : Word) : (writeOffset s off v).agenda = s.agenda := by
  obtain ⟨_, h⟩ | ⟨_, h⟩ | ⟨_, _, h⟩ | ⟨_, _, _, _, _, h⟩ := writeOffset_cases s off v <;> rw [h]
  rfl

/-- While BUSY = 0 a write to CMD issues (R57, R74). -/
theorem writeOffset_cmd {s : State} (hb : s.status.busy = false) (v : Word) : writeOffset s 0x004 v = issue v s :=
  writeOffset_offsetOf hb .cmd v

/-- While BUSY = 0 a write at a read-write register's offset stores its word there, and every other word of the window
stays, reserved offsets included. -/
theorem readOffset_writeOffset {s : State} (hb : s.status.busy = false) {r : WinReg} (hr : ReadWrite r) (v : Word)
    {off : Nat} (ha : off % 4 = 0) :
    readOffset (writeOffset s (offsetOf r) v) off = if off = offsetOf r then v else readOffset s off := by
  rw [writeOffset_offsetOf hb]
  split_ifs with h
  · rw [h, readOffset_offsetOf, readReg_writeReg_same s v hr]
  · obtain ⟨r', rfl⟩ | hres := aligned_offset_cases ha
    · have hne : r' ≠ r := fun e => h (congrArg offsetOf e)
      rw [readOffset_offsetOf, readOffset_offsetOf, readReg_writeReg_other s v hr hne]
    · rw [readOffset_of_reserved _ hres, readOffset_of_reserved _ hres]

/-- While BUSY = 0 a write to a read-only or reserved word changes nothing (R56, R57). -/
theorem writeOffset_ignored {s : State} (hb : s.status.busy = false) {off : Nat} (ha : off % 4 = 0)
    (hcmd : off ≠ 0x004) (hrw : ¬ (off = 0x00C ∨ off = 0x010 ∨ (0x100 ≤ off ∧ off < 0x188))) (v : Word) :
    writeOffset s off v = s := by
  obtain ⟨r, rfl⟩ | hres := aligned_offset_cases ha
  · have hr : r ≠ .cmd := fun e => hcmd (congrArg offsetOf e)
    rw [writeOffset_offsetOf hb, writeReg_readOnly s v hr (mt (readWrite_iff_offsetOf r).1 hrw)]
  · exact writeOffset_of_reserved hb hres v

/-! ### The step that performs an access -/

/-- The state in which the oldest host event has been taken from the agenda and is about to be performed. -/
def takeEvent (s : State) (rest : List HostEvent) : State := { s with agenda := rest, wait := s.wait - 1 }

@[simp] theorem takeEvent_agenda (s : State) (rest : List HostEvent) : (takeEvent s rest).agenda = rest := rfl
@[simp] theorem takeEvent_status (s : State) (rest : List HostEvent) : (takeEvent s rest).status = s.status := rfl
@[simp] theorem takeEvent_lcmd (s : State) (rest : List HostEvent) : (takeEvent s rest).lcmd = s.lcmd := rfl

/-- A read sees the block's registers only: no field of the host's or of the latency. -/
theorem readOffset_blockOf (s : State) (off : Nat) : readOffset (blockOf s) off = readOffset s off := by
  unfold readOffset
  cases regAt off with
  | none => rfl
  | some r => cases r <;> rfl

@[simp] theorem readOffset_takeEvent (s : State) (rest : List HostEvent) (off : Nat) :
    readOffset (takeEvent s rest) off = readOffset s off := by
  rw [← readOffset_blockOf, ← readOffset_blockOf s]
  rfl

@[simp] theorem readOffset_response (s : State) (p : Option Response) (off : Nat) :
    readOffset { s with response := p } off = readOffset s off := by
  rw [← readOffset_blockOf, ← readOffset_blockOf s]
  rfl

/-- With BUSY = 0 it is never the engine's turn (R58). -/
theorem engineTurn_idle {s : State} (hb : s.status.busy = false) : engineTurn s = false := by
  simp [engineTurn, hb]

/-- When the engine does not move, the step performs the oldest host event. -/
theorem step_hostEvent {s : State} {e : HostEvent} {rest : List HostEvent} (ht : engineTurn s = false)
    (hag : s.agenda = e :: rest) : step s = .next (performEvent e (takeEvent s rest)) := by
  simp [step, ht, hostStep, hag, takeEvent]

/-- The primitive write at an aligned offset of the window is taken and acknowledged (R9, R51). -/
theorem performAccess_memWrite (s : State) {off : Nat} (hlt : off < 0x1000) (ha : off % 4 = 0) (v : Word) :
    performAccess (memWrite (Config.base + off) v) s = { writeOffset s off v with response := some .ack } := by
  have hwin : inWindow (Config.base + off) = true := by
    simp [inWindow, Config.windowSize]; omega
  simp [performAccess, memWrite, hwin, accessTaken, windowOffset, ha]

/-- Settles O17: the step performs the write at its offset, and the write issues, stores or is ignored by the kind of
the word there. -/
theorem idleWriteByAccess : Obligations.IdleWriteByAccess := by
  intro s off v rest hb hlt ha hag
  have hb' : (takeEvent s rest).status.busy = false := hb
  refine ⟨{ writeOffset (takeEvent s rest) off v with response := some .ack }, ?_, rfl, by simp, ?_⟩
  · rw [step_hostEvent (engineTurn_idle hb) hag, performEvent, performAccess_memWrite _ hlt ha]
  split_ifs with hcmd hrw
  · rw [hcmd, writeOffset_cmd hb']
    rfl
  · obtain ⟨r, rfl⟩ : ∃ r, offsetOf r = off :=
      exists_offsetOf_of_not_reserved ha (by unfold Reserved; omega)
    have hr : ReadWrite r := (readWrite_iff_offsetOf r).2 hrw
    obtain ⟨hlcmd, hstatus⟩ := writeReg_lcmd_status (takeEvent s rest) v hr
    refine ⟨?_, fun off' ha' hne => ?_, ?_, ?_⟩
    · rw [readOffset_response, readOffset_writeOffset hb' hr v ha, if_pos rfl]
    · rw [readOffset_response, readOffset_writeOffset hb' hr v ha', if_neg hne, readOffset_takeEvent]
    · simpa [writeOffset_offsetOf hb'] using hlcmd
    · simpa [writeOffset_offsetOf hb'] using hstatus
  · rw [writeOffset_ignored hb' ha hcmd hrw]
    rfl

end Sys2Proof.Machine
end

section
/-! The decoder and the opcode map (R70 to R72): a word is the pair of its fields, and it decodes to a command exactly
when it is that command's full word. -/

namespace Sys2Proof

/-- A word is put together from its own fields (R70). -/
@[simp] theorem wordOf_fieldsOf (w : Word) : wordOf (fieldsOf w) = w :=
  (BitVec.extractLsb'_append_extractLsb'_eq_extractLsb' (by decide)).trans BitVec.extractLsb'_eq_self

/-- The fields of a word are those it was put together from (R70). -/
@[simp] theorem fieldsOf_wordOf (c : CommandWord) : fieldsOf (wordOf c) = c := by
  have hop : (c.rsv ++ c.op).extractLsb' 0 4 = c.op := BitVec.extractLsb'_append_eq_right
  have hrsv : (c.rsv ++ c.op).extractLsb' 4 28 = c.rsv := BitVec.extractLsb'_append_eq_left
  rw [fieldsOf, wordOf, hop, hrsv]

/-- An OP value selects a command exactly when it is that command's OP. -/
theorem decodeOp_eq_ok_iff (op : BitVec 4) (i : Instr) : decodeOp op = .ok i ↔ op = opOf i := by
  constructor
  · intro h
    unfold decodeOp at h
    split at h
    case h_8 => cases h
    all_goals
      next hop =>
        obtain rfl := Except.ok.inj h
        exact BitVec.eq_of_toNat_eq hop
  · rintro rfl
    cases i <;> rfl

/-- Decoding succeeds exactly on RSV = 0 and the OP of the command. -/
theorem decode_eq_ok_iff_fields (w : Word) (i : Instr) :
    decode w = .ok i ↔ (fieldsOf w).rsv = 0 ∧ (fieldsOf w).op = opOf i := by
  unfold decode
  split_ifs with hrsv
  · exact iff_of_false nofun fun h => hrsv h.1
  · rw [decodeOp_eq_ok_iff, and_iff_right (not_not.1 hrsv)]

/-- A word decodes to a command exactly when it is that command's full word. -/
theorem decode_eq_ok_iff (w : Word) (i : Instr) : decode w = .ok i ↔ w = encode i := by
  rw [decode_eq_ok_iff_fields]
  constructor
  · rintro ⟨hrsv, hop⟩
    rw [encode, ← hrsv, ← hop, wordOf_fieldsOf]
  · rintro rfl
    rw [encode, fieldsOf_wordOf]
    exact ⟨rfl, rfl⟩

/-- The legal OP values are the OPs of the commands (R71). -/
theorem mem_legalOps_iff (op : BitVec 4) : op ∈ legalOps ↔ ∃ i, op = opOf i := by
  constructor
  · intro h
    simp only [legalOps, List.mem_cons, List.not_mem_nil, or_false] at h
    obtain h | h | h | h | h | h | h := h
    exacts [⟨.crcEnc, h⟩, ⟨.crcVer, h⟩, ⟨.hamPcount, h⟩, ⟨.hamEnc, h⟩, ⟨.stuff, h⟩, ⟨.destuff, h⟩, ⟨.clr, h⟩]
  · rintro ⟨i, rfl⟩
    cases i <;> decide

/-- The opcode map of R71: each full word with its command. -/
def opcodeMap : List (Word × Instr) :=
  [(0x00000001#32, .crcEnc), (0x00000002#32, .crcVer), (0x00000003#32, .hamPcount), (0x00000004#32, .hamEnc),
    (0x00000005#32, .stuff), (0x00000006#32, .destuff), (0x0000000F#32, .clr)]

/-- The map lists each command once, with the word that encodes it. -/
theorem mem_opcodeMap_iff (w : Word) (i : Instr) : (w, i) ∈ opcodeMap ↔ w = encode i := by
  have hword : ∀ p ∈ opcodeMap, p.1 = encode p.2 := by decide
  constructor
  · exact hword (w, i)
  · rintro rfl
    cases i <;> decide

/-- Settles O1: decoding succeeds exactly on RSV = 0 and a command's OP, that is on the words that encode commands. -/
theorem legalWordsAreExactlyTheMap : Obligations.LegalWordsAreExactlyTheMap := by
  refine ⟨fun w => ?_, fun w i => ?_⟩
  · calc (∃ i, decode w = .ok i)
      _ ↔ (fieldsOf w).rsv = 0 ∧ ∃ i, (fieldsOf w).op = opOf i := by
        simp only [decode_eq_ok_iff_fields, exists_and_left]
      _ ↔ (fieldsOf w).rsv = 0 ∧ (fieldsOf w).op ∈ legalOps := by rw [mem_legalOps_iff]
  · exact (decode_eq_ok_iff w i).trans (mem_opcodeMap_iff w i).symm

end Sys2Proof
end

section
/-! What an issue leaves in the result state and in STATUS, and the CMD write that issues (R74). -/

namespace Sys2Proof.Machine

/-- An issue clears the whole result state (R74). -/
theorem resultsClear_issue (v : Word) (s : State) : ResultsClear (issue v s) :=
  ⟨⟨rfl, rfl, rfl, rfl⟩, rfl, rfl, rfl, rfl, rfl⟩

/-- After an issue STATUS reads with BUSY alone set (R74). -/
theorem statusWord_statusIssued : statusWord statusIssued = 0x00000001#32 := by decide

/-- While BUSY = 0 the step that performs a CMD write issues the written word and acknowledges it (R57, R74). -/
theorem step_cmdWrite {s : State} {v : Word} {rest : List HostEvent} (hb : s.status.busy = false)
    (hag : s.agenda = .access (memWrite (Config.base + 0x004) v) :: rest) :
    step s = .next { issue v (takeEvent s rest) with response := some .ack } := by
  have hb' : (takeEvent s rest).status.busy = false := hb
  rw [step_hostEvent (engineTurn_idle hb) hag, performEvent, performAccess_memWrite _ (by decide) (by decide),
    writeOffset_cmd hb']

/-- Settles O6: the step issues the written word, whatever it is. -/
theorem cmdWriteIssues : Obligations.CmdWriteIssues := by
  intro s v rest hb hag
  exact ⟨_, step_cmdWrite hb hag, rfl, resultsClear_issue v (takeEvent s rest), rfl, rfl, statusWord_statusIssued,
    rfl, rfl, rfl, rfl, rfl, rfl⟩

end Sys2Proof.Machine
end

section
/-! What an error completion leaves (R182), and the errors that reach it: an illegal word (R79, R184) and a command's own
checks (R183). -/

namespace Sys2Proof.Machine

/-! ### The error completion -/

/-- An error completion writes STATUS and ERRINFO alone, and no status bit of CRC_OK or COLL: on cleared results the
outputs stay clear (R182). -/
theorem errorComplete_frame (e : CmdError) {s : State} (hclear : ResultsClear s) :
    OutputsClear (errorComplete e s) ∧ (errorComplete e s).status.crcOk = false ∧
      SameBesideResults s (errorComplete e s) := by
  obtain ⟨houtputs, _, _, _, hcrcOk, _⟩ := hclear
  exact ⟨houtputs, hcrcOk, rfl, rfl, rfl, rfl, rfl, rfl, rfl, rfl, rfl, rfl⟩

/-- The STATUS word of an error: DONE and ERR, the code in bits 11:8, and COLL as it was (R23, R182). -/
theorem statusWord_errorComplete (c : ErrorCode) (info : Word) {s : State} (hclear : ResultsClear s) :
    statusWord (errorComplete ⟨c, info⟩ s).status =
      (0x00000006#32 ||| (errorNumber c).setWidth 32 <<< 8) ||| (if s.status.coll then 0x00000010#32 else 0) := by
  obtain ⟨_, _, _, _, hcrcOk, _⟩ := hclear
  simp only [statusWord, errorComplete_status, statusFailed_errCode, statusFailed_coll, statusFailed_crcOk,
    statusFailed_err, statusFailed_done, statusFailed_busy, hcrcOk]
  cases c <;> cases s.status.coll <;> rfl

/-! ### An illegal word -/

/-- The words with well-formed fields are those that decode (R71). -/
theorem wf_fieldsOf_iff (w : Word) : (fieldsOf w).wf = true ↔ ∃ i, decode w = .ok i := by
  simp only [CommandWord.wf, Bool.and_eq_true, beq_iff_eq, List.contains_iff_mem, mem_legalOps_iff,
    decode_eq_ok_iff_fields, exists_and_left]

/-- An illegal word completes with ILLEGAL_CMD and itself as the detail (R79, R184). -/
theorem execute_illegal {w : Word} (h : (fieldsOf w).wf = false) (s : State) :
    execute w s = .next (errorComplete ⟨.illegalCmd, w⟩ s) := by
  obtain ⟨i, hi, _⟩ | ⟨_, _, hexec⟩ := execute_cases w s
  · exact absurd ((wf_fieldsOf_iff w).2 ⟨i, hi⟩) (by simp [h])
  · exact hexec

/-- With BUSY = 1 and the latency over, or the host done, the step is the engine's completion step (R75, R76). -/
theorem step_engine {s : State} (hb : s.status.busy = true) (hw : s.wait = 0 ∨ s.agenda = []) :
    step s = execute s.lcmd s := by
  have ht : engineTurn s = true := by simpa [engineTurn, hb] using hw
  obtain ⟨_, h⟩ | ⟨hf, _⟩ := step_cases s
  · exact h
  · exact absurd ht (by simp [hf])

/-- Settles O45: the completion step of an illegal word is its error completion. -/
theorem illegalWordReportsItself : Obligations.IllegalWordReportsItself := by
  intro s hb hw hclear hwf
  obtain ⟨houtputs, hcrcOk, hsame⟩ := errorComplete_frame ⟨.illegalCmd, s.lcmd⟩ hclear
  refine ⟨_, (step_engine hb hw).trans (execute_illegal hwf s), rfl, houtputs, hcrcOk, ?_, hsame⟩
  rw [statusWord_errorComplete _ _ hclear]
  cases s.status.coll <;> rfl

/-! ### The checks of a command -/

/-- The body of each command, which gives the state with its outputs assigned or raises an error. -/
def commandBody : Instr → State → Except CmdError State
  | .crcEnc, s => crcEncode s
  | .crcVer, s => crcVerify s
  | .hamPcount, s => hammingCount s
  | .hamEnc, s => hammingEncode s
  | .stuff, s => stuffBody s
  | .destuff, s => destuffBody s
  | .clr, s => .ok (clearRegisters s)

/-- A command is its body and the completion the body ends in (R75, R79). -/
theorem exec_eq_finish (i : Instr) (s : State) : exec i s = finish s (commandBody i s) := by
  cases i <;> rfl

/-- R183's rows for the CRC commands are the checks they make. -/
theorem reportedError_crc (s : State) :
    reportedError .crcEnc s = crcInputError s ∧ reportedError .crcVer s = crcInputError s := by
  have hg : s.glen = 0 ↔ s.glen.toNat = 0 := by rw [← BitVec.toNat_inj]; simp
  have hd : s.dlen = 0 ↔ s.dlen.toNat = 0 := by rw [← BitVec.toNat_inj]; simp
  simp only [reportedError, crcInputError, Config.dmax, Config.gmax, bitAt_gen_zero, hg, hd, and_self]

/-- R183's rows for DESTUFF: the length check, then the first missing guard. -/
theorem reportedError_destuff (s : State) :
    reportedError .destuff s = (dataLengthError s).or
      (match destuffBits (dataBits s) with
        | .ok _ => none
        | .error t => some ⟨.stuffViolation, lengthWord t⟩) := rfl

/-- A command whose row of R183 reports an error has a body that raises it. -/
theorem commandBody_of_reportedError {i : Instr} {s : State} {e : CmdError} (h : reportedError i s = some e) :
    commandBody i s = .error e := by
  cases i with
  | crcEnc =>
    rw [(reportedError_crc s).1] at h
    simp only [commandBody, crcEncode, h]
  | crcVer =>
    rw [(reportedError_crc s).2] at h
    simp only [commandBody, crcVerify, h]
  | hamPcount =>
    have hlen : dataLengthError s = some e := h
    simp only [commandBody, hammingCount, hlen]
  | hamEnc =>
    have hlen : dataLengthError s = some e := h
    simp only [commandBody, hammingEncode, hlen]
  | stuff =>
    have hlen : dataLengthError s = some e := h
    simp only [commandBody, stuffBody, hlen]
  | destuff =>
    rw [reportedError_destuff] at h
    cases hlen : dataLengthError s with
    | some e' => simpa [commandBody, destuffBody, hlen] using h
    | none =>
      cases hy : destuffBits (dataBits s) with
      | error t => simpa [commandBody, destuffBody, hlen, hy] using h
      | ok r => simp [hlen, hy] at h
  | clr => cases h

/-- A command that reports an error ends in that error's completion (R182, R183). -/
theorem exec_of_reportedError {i : Instr} {s : State} {e : CmdError} (h : reportedError i s = some e) :
    exec i s = .next (errorComplete e s) := by
  rw [exec_eq_finish, commandBody_of_reportedError h, finish_error]

/-- Settles O43: the command ends in the reported error's completion, which writes STATUS and ERRINFO alone. -/
theorem errorCompletionEffect : Obligations.ErrorCompletionEffect := by
  intro i s e hclear hreported
  obtain ⟨houtputs, hcrcOk, hsame⟩ := errorComplete_frame e hclear
  refine ⟨_, exec_of_reportedError hreported, rfl, houtputs, hcrcOk, ?_, hsame⟩
  obtain ⟨code, info⟩ := e
  rw [statusWord_errorComplete _ _ hclear]
  cases code <;> rfl

end Sys2Proof.Machine
end

section
/-! An access that the block does not take gets a bus error, and the error changes nothing of the block (R51, R191). -/

namespace Sys2Proof.Machine

/-- The window is the 4 KiB from BASE (R50). -/
theorem inWindow_base_add {off : Nat} (h : off < 0x1000) : inWindow (Config.base + off) = true := by
  simp [inWindow, Config.windowSize]
  omega

/-- The block takes an access exactly when it is 32 bits wide at an aligned offset (R51). -/
theorem accessTaken_iff {a : Access} {off : Nat} (ha : a.addr = Config.base + off) :
    accessTaken a = true ↔ a.width = 32 ∧ off % 4 = 0 := by
  simp [accessTaken, windowOffset, ha]

/-- Inside the window, an access that is not taken leaves the bus error as its response and no other trace (R191). -/
theorem performAccess_busError {a : Access} {off : Nat} (ha : a.addr = Config.base + off) (hlt : off < 0x1000)
    (hbad : a.width ≠ 32 ∨ off % 4 ≠ 0) (s : State) :
    performAccess a s = { s with response := some .busError } := by
  have hwin : inWindow a.addr = true := ha ▸ inWindow_base_add hlt
  have htaken : ¬ accessTaken a = true := by rw [accessTaken_iff ha]; omega
  simp [performAccess, hwin, htaken]

/-- Settles O8: the step takes the access from the agenda and answers it with the bus error alone. -/
theorem busErrorChangesNoRegister : Obligations.BusErrorChangesNoRegister := by
  intro s a off rest ht ha hlt hbad hag
  refine ⟨{ takeEvent s rest with response := some .busError }, ?_, rfl, rfl, rfl⟩
  rw [step_hostEvent ht hag, performEvent, performAccess_busError ha hlt hbad]

end Sys2Proof.Machine
end

section
/-! The stuffing machine over a stream (R150): which scratch it is left in, when it inserts a guard by R152's reading of
runs, what DESTUFF does with a stuffed stream, and how DESTUFF fails on any other (R153, R190). -/

namespace Sys2Proof.Machine

/-! ### The scratch after a stream -/

/-- A guard is due after a bit exactly when it is the fifth '1' counted and the gate is open (R150). -/
theorem guardDue_stepOrig_iff (b : Bool) (m : StuffScratch) :
    guardDue (stepOrig b m) = true ↔ b = true ∧ m.run = 4 ∧ m.gate = true := by
  cases b <;> simp [guardDue, stepOrig, Config.guardRun]

/-- The scratch after STUFF has taken one bit, a guard inserted if one is due (R151). -/
def afterBit (m : StuffScratch) (b : Bool) : StuffScratch :=
  if guardDue (stepOrig b m) then stuffGuarded else stepOrig b m

theorem afterBit_of_due {m : StuffScratch} {b : Bool} (h : guardDue (stepOrig b m) = true) :
    afterBit m b = stuffGuarded := if_pos h

theorem afterBit_of_not_due {m : StuffScratch} {b : Bool} (h : guardDue (stepOrig b m) = false) :
    afterBit m b = stepOrig b m := if_neg (by simp [h])

/-- A '1' is counted, and the fifth of a run with the gate open closes the gate (R150). -/
theorem afterBit_true (run : Nat) (gate : Bool) :
    afterBit { run := run, gate := gate } true =
      if run = 4 ∧ gate = true then { run := 0, gate := false } else { run := run + 1, gate := gate } := by
  simp only [afterBit, guardDue_stepOrig_iff, true_and]
  rfl

/-- How many '1's a stream ends with. -/
def onesAtEnd (x : Bits) : Nat := (x.rtakeWhile id).length

@[simp] theorem onesAtEnd_nil : onesAtEnd [] = 0 := rfl

@[simp] theorem onesAtEnd_concat (x : Bits) (b : Bool) :
    onesAtEnd (x ++ [b]) = if b then onesAtEnd x + 1 else 0 := by
  cases b <;> simp [onesAtEnd]

/-- A stream ends with `n` '1's or more exactly when its last `n` characters are '1's. -/
theorem le_onesAtEnd_iff (x : Bits) (n : Nat) :
    n ≤ onesAtEnd x ↔ n ≤ x.length ∧ ∀ j < n, x.getD (x.length - 1 - j) false = true := by
  induction x using List.reverseRecOn generalizing n with
  | nil => simp +contextual
  | append_singleton x b ih =>
    cases n with
    | zero => simp
    | succ k =>
      have hlast : (x ++ [b]).getD (x.length - 0) false = b := by simp
      have hrest : ∀ j < k, k ≤ x.length →
          (x ++ [b]).getD (x.length - (j + 1)) false = x.getD (x.length - 1 - j) false := by
        intro j hj hk
        rw [List.getD_append _ _ _ _ (by omega)]
        congr 1; omega
      cases b with
      | false =>
        have hzero : ¬ ∀ j < k + 1, (x ++ [false]).getD (x.length - j) false = true := fun h => by
          simpa [hlast] using h 0 (Nat.succ_pos k)
        simpa using fun _ => hzero
      | true =>
        simp only [onesAtEnd_concat, if_true, Nat.add_le_add_iff_right, ih, List.length_append, List.length_singleton,
          Nat.add_sub_cancel, Nat.forall_lt_succ_left, hlast, true_and]
        refine and_congr_right fun hk => forall_congr' fun j => imp_congr_right fun hj => ?_
        rw [hrest j hj hk]

/-- The last character of a stream is the fifth '1' of a maximal run exactly when the stream ends with five '1's and no
more (R152). -/
theorem fifthOfRun_last_iff (x : Bits) : fifthOfRun x (x.length - 1) = true ↔ onesAtEnd x = 5 := by
  have hfive := le_onesAtEnd_iff x 5
  have hsix := le_onesAtEnd_iff x 6
  rw [Nat.forall_lt_succ_right] at hsix
  have hall : (List.range 5).all (fun j => x.getD (x.length - 1 - j) false) = true ↔
      ∀ j < 5, x.getD (x.length - 1 - j) false = true := by simp only [List.all_eq_true, List.mem_range]
  have hexact : onesAtEnd x = 5 ↔ 5 ≤ onesAtEnd x ∧ ¬ 6 ≤ onesAtEnd x := by omega
  have hlen : 4 ≤ x.length - 1 ↔ 5 ≤ x.length := by omega
  simp only [fifthOfRun, Bool.and_eq_true, Bool.or_eq_true, decide_eq_true_eq, hall, Bool.not_eq_true', hexact,
    hfive, hsix, hlen]
  grind

/-- The scratch counts the '1's at the end of the stream, up to the guard after the fifth and then from it; after the
guard the gate stays closed (R150). -/
theorem foldl_afterBit_stuffStart (x : Bits) :
    x.foldl afterBit stuffStart =
      if onesAtEnd x < 5 then { run := onesAtEnd x, gate := true } else { run := onesAtEnd x - 5, gate := false } := by
  induction x using List.reverseRecOn with
  | nil => rfl
  | append_singleton x b ih =>
    rw [List.foldl_append, ih, List.foldl_cons, List.foldl_nil, onesAtEnd_concat]
    cases b with
    | false => rfl
    | true =>
      rw [if_pos rfl]
      obtain h | h | h : onesAtEnd x < 4 ∨ onesAtEnd x = 4 ∨ 4 < onesAtEnd x := by omega
      · rw [if_pos (by omega), if_pos (by omega), afterBit_true, if_neg (by simp; omega)]
      · rw [if_pos (by omega), if_neg (by omega), afterBit_true, if_pos ⟨h, rfl⟩, h]
      · rw [if_neg (by omega), if_neg (by omega), afterBit_true, if_neg (by simp)]
        congr 1
        omega

/-- A guard is due after a stream's last bit exactly when that bit is the fifth '1' of a maximal run (R150, R152). -/
theorem guardDue_last_iff (x : Bits) (b : Bool) :
    guardDue (stepOrig b (x.foldl afterBit stuffStart)) = true ↔ onesAtEnd (x ++ [b]) = 5 := by
  rw [guardDue_stepOrig_iff, foldl_afterBit_stuffStart, onesAtEnd_concat]
  cases b with
  | false => simp
  | true =>
    rw [if_pos rfl]
    split_ifs with h
    · simp
    · exact iff_of_false (by simp) (by omega)

/-! ### STUFF -/

theorem stuffFrom_cons_of_due {m : StuffScratch} {b : Bool} (h : guardDue (stepOrig b m) = true) (x : Bits) :
    stuffFrom m (b :: x) = (b :: false :: (stuffFrom stuffGuarded x).1, (stuffFrom stuffGuarded x).2 + 1) := by
  simp [stuffFrom, h]

theorem stuffFrom_cons_of_not_due {m : StuffScratch} {b : Bool} (h : guardDue (stepOrig b m) = false) (x : Bits) :
    stuffFrom m (b :: x) = (b :: (stuffFrom (stepOrig b m) x).1, (stuffFrom (stepOrig b m) x).2) := by
  simp [stuffFrom, h]

/-- STUFF goes on from the scratch that the first part of the stream leaves. -/
theorem stuffFrom_append (m : StuffScratch) (x y : Bits) :
    stuffFrom m (x ++ y) = ((stuffFrom m x).1 ++ (stuffFrom (x.foldl afterBit m) y).1,
      (stuffFrom m x).2 + (stuffFrom (x.foldl afterBit m) y).2) := by
  induction x generalizing m with
  | nil => simp [stuffFrom]
  | cons b x ih =>
    rw [List.cons_append, List.foldl_cons]
    cases h : guardDue (stepOrig b m) with
    | true => simp only [stuffFrom_cons_of_due h, afterBit_of_due h, ih, List.cons_append, Nat.add_right_comm]
    | false => simp only [stuffFrom_cons_of_not_due h, afterBit_of_not_due h, ih, List.cons_append]

/-- Where a guard is due after the last bit, the stuffed stream ends with that bit and the guard. -/
theorem stuffFrom_concat_of_due {m : StuffScratch} {x : Bits} {b : Bool}
    (h : guardDue (stepOrig b (x.foldl afterBit m)) = true) :
    (stuffFrom m (x ++ [b])).1 = ((stuffFrom m x).1 ++ [b]) ++ [false] := by
  rw [stuffFrom_append, stuffFrom_cons_of_due h]
  simp [stuffFrom]

/-! ### DESTUFF -/

theorem destuffFrom_cons_of_not_due {m : StuffScratch} {b : Bool} (h : guardDue (stepOrig b m) = false) (t : Nat)
    (y : Bits) :
    destuffFrom false m t (b :: y) =
      (destuffFrom false (stepOrig b m) (t + 1) y).map fun r => (b :: r.1, r.2) := by
  rw [destuffFrom, h]
  cases destuffFrom false (stepOrig b m) (t + 1) y <;> rfl

/-- A guard that is due and there is taken out. -/
theorem destuffFrom_cons_guard {m : StuffScratch} {b : Bool} (h : guardDue (stepOrig b m) = true) (t : Nat)
    (y : Bits) :
    destuffFrom false m t (b :: false :: y) =
      (destuffFrom false stuffGuarded (t + 2) y).map fun r => (b :: r.1, r.2 + 1) := by
  rw [destuffFrom, h, destuffFrom]
  cases destuffFrom false stuffGuarded (t + 2) y <;> simp_all [Except.map]

/-- A guard that is due and missing, because the stream ends or goes on with '1', is a violation at its index (R190). -/
theorem destuffFrom_cons_missing {m : StuffScratch} {b : Bool} (h : guardDue (stepOrig b m) = true) (t : Nat)
    {z : Bits} (hz : z.head? ≠ some false) : destuffFrom false m t (b :: z) = .error (t + 1) := by
  rw [destuffFrom, h]
  cases z with
  | nil => rfl
  | cons c z =>
    obtain rfl : c = true := by simpa using hz
    rfl

/-- DESTUFF reads a stuffed stream back and goes on with what follows it (R154). -/
theorem destuffFrom_stuffFrom_append (m : StuffScratch) (t : Nat) (x z : Bits) :
    destuffFrom false m t ((stuffFrom m x).1 ++ z) =
      (destuffFrom false (x.foldl afterBit m) (t + (stuffFrom m x).1.length) z).map
        fun r => (x ++ r.1, (stuffFrom m x).2 + r.2) := by
  induction x generalizing m t with
  | nil => cases h : destuffFrom false m t z <;> simp [stuffFrom, Except.map, h]
  | cons b x ih =>
    rw [List.foldl_cons]
    cases h : guardDue (stepOrig b m) with
    | true =>
      have hlen : t + (stuffFrom m (b :: x)).1.length = t + 2 + (stuffFrom stuffGuarded x).1.length := by
        simp only [stuffFrom_cons_of_due h, List.length_cons]; omega
      rw [hlen, stuffFrom_cons_of_due h, afterBit_of_due h, List.cons_append, List.cons_append,
        destuffFrom_cons_guard h, ih]
      cases destuffFrom false (x.foldl afterBit stuffGuarded) (t + 2 + (stuffFrom stuffGuarded x).1.length) z with
      | error e => rfl
      | ok r => simp only [Except.map, List.cons_append, Nat.add_right_comm]
    | false =>
      have hlen : t + (stuffFrom m (b :: x)).1.length = t + 1 + (stuffFrom (stepOrig b m) x).1.length := by
        simp only [stuffFrom_cons_of_not_due h, List.length_cons]; omega
      rw [hlen, stuffFrom_cons_of_not_due h, afterBit_of_not_due h, List.cons_append, destuffFrom_cons_of_not_due h, ih]
      cases destuffFrom false (x.foldl afterBit (stepOrig b m)) (t + 1 + (stuffFrom (stepOrig b m) x).1.length) z <;>
        rfl

/-- DESTUFF reads a stuffed stream back (R154). -/
theorem destuffFrom_stuffFrom (m : StuffScratch) (t : Nat) (x : Bits) :
    destuffFrom false m t (stuffFrom m x).1 = .ok (x, (stuffFrom m x).2) := by
  simpa [destuffFrom, Except.map] using destuffFrom_stuffFrom_append m t x []

/-- DESTUFF fails where a guard is due after a stuffed stream and missing (R190). -/
theorem destuffFrom_missing_guard {m : StuffScratch} {x z : Bits} {b : Bool}
    (h : guardDue (stepOrig b (x.foldl afterBit m)) = true) (hz : z.head? ≠ some false) (t : Nat) :
    destuffFrom false m t ((stuffFrom m x).1 ++ b :: z) = .error (t + (stuffFrom m x).1.length + 1) := by
  rw [destuffFrom_stuffFrom_append, destuffFrom_cons_missing h _ hz]
  rfl

/-- A stream is a stuffed one, or it is a stuffed one up to a bit after which a guard is due and missing. -/
theorem stuffed_or_missing_guard (m : StuffScratch) : (y : Bits) →
    (∃ x, y = (stuffFrom m x).1) ∨
    ∃ x b z, guardDue (stepOrig b (x.foldl afterBit m)) = true ∧ z.head? ≠ some false ∧
      y = (stuffFrom m x).1 ++ b :: z
  | [] => .inl ⟨[], rfl⟩
  | b :: y => by
    cases hdue : guardDue (stepOrig b m) with
    | false =>
      obtain ⟨x, rfl⟩ | ⟨x, c, z, hc, hz, rfl⟩ := stuffed_or_missing_guard (stepOrig b m) y
      · exact .inl ⟨b :: x, by rw [stuffFrom_cons_of_not_due hdue]⟩
      · refine .inr ⟨b :: x, c, z, ?_, hz, by rw [stuffFrom_cons_of_not_due hdue, List.cons_append]⟩
        rwa [List.foldl_cons, afterBit_of_not_due hdue]
    | true =>
      match y with
      | [] => exact .inr ⟨[], b, [], hdue, by simp, rfl⟩
      | true :: y => exact .inr ⟨[], b, true :: y, hdue, by simp, rfl⟩
      | false :: y =>
        obtain ⟨x, rfl⟩ | ⟨x, c, z, hc, hz, rfl⟩ := stuffed_or_missing_guard stuffGuarded y
        · exact .inl ⟨b :: x, by rw [stuffFrom_cons_of_due hdue]⟩
        · refine .inr ⟨b :: x, c, z, ?_, hz, by rw [stuffFrom_cons_of_due hdue, List.cons_append, List.cons_append]⟩
          rwa [List.foldl_cons, afterBit_of_due hdue]
  termination_by y => y.length

/-! ### STUFF_VIOLATION -/

/-- A bit-string is a stuffed stream up to a guard due right after it: R152's reading of runs and the machine's scratch
say the same. -/
theorem exists_fifthOfRun_iff (w : Bits) :
    (∃ x, fifthOfRun x (x.length - 1) = true ∧ (stuffBits x).1 = w ++ [false]) ↔
      ∃ x b, guardDue (stepOrig b (x.foldl afterBit stuffStart)) = true ∧ w = (stuffFrom stuffStart x).1 ++ [b] := by
  simp only [fifthOfRun_last_iff]
  constructor
  · rintro ⟨x, hfive, hw⟩
    obtain rfl | ⟨x, b, rfl⟩ := x.eq_nil_or_concat'
    · simp at hfive
    · have hdue := (guardDue_last_iff x b).2 hfive
      rw [stuffBits, stuffFrom_concat_of_due hdue] at hw
      exact ⟨x, b, hdue, (List.append_cancel_right hw).symm⟩
  · rintro ⟨x, b, hdue, rfl⟩
    exact ⟨x ++ [b], (guardDue_last_iff x b).1 hdue, stuffFrom_concat_of_due hdue⟩

/-- What is left of a stream after its first `t` bits does not start with '0' exactly when the stream ends there or goes
on with '1'. -/
theorem head?_drop_ne_false_iff {y : Bits} {t : Nat} (ht : t ≤ y.length) :
    (y.drop t).head? ≠ some false ↔ t = y.length ∨ y.getD t false = true := by
  rw [List.head?_drop, List.getD_eq_getElem?_getD]
  obtain rfl | hlt := ht.eq_or_lt
  · simp
  · simp [List.getElem?_eq_getElem hlt, hlt.ne]

/-- DESTUFF fails at index `t` exactly when the first `t` bits are a stuffed stream up to a guard due there, and the
stream ends or goes on with '1' (R190). -/
theorem destuffBits_eq_error_iff (y : Bits) (t : Nat) :
    destuffBits y = .error t ↔
      t ≤ y.length ∧ (∃ x, fifthOfRun x (x.length - 1) = true ∧ (stuffBits x).1 = y.take t ++ [false]) ∧
        (t = y.length ∨ y.getD t false = true) := by
  rw [exists_fifthOfRun_iff]
  constructor
  · intro hfail
    obtain ⟨x, rfl⟩ | ⟨x, b, z, hdue, hz, rfl⟩ := stuffed_or_missing_guard stuffStart y
    · rw [destuffBits, destuffFrom_stuffFrom] at hfail
      cases hfail
    · rw [destuffBits, destuffFrom_missing_guard hdue hz, Nat.zero_add] at hfail
      obtain rfl := Except.error.inj hfail
      have ht : (stuffFrom stuffStart x).1.length + 1 ≤ ((stuffFrom stuffStart x).1 ++ b :: z).length := by simp
      refine ⟨ht, ⟨x, b, hdue, by simp [List.take_append]⟩, (head?_drop_ne_false_iff ht).1 ?_⟩
      simpa [List.drop_append] using hz
  · rintro ⟨ht, ⟨x, b, hdue, htake⟩, hnext⟩
    have hz : (y.drop t).head? ≠ some false := (head?_drop_ne_false_iff ht).2 hnext
    have hy : y = (stuffFrom stuffStart x).1 ++ b :: y.drop t := by
      calc y = y.take t ++ y.drop t := (List.take_append_drop t y).symm
        _ = (stuffFrom stuffStart x).1 ++ b :: y.drop t := by rw [htake, List.append_assoc]; rfl
    have hlen : t = (stuffFrom stuffStart x).1.length + 1 := by
      simpa [ht] using congrArg List.length htake
    rw [hy, destuffBits, destuffFrom_missing_guard hdue hz, hlen, Nat.zero_add]

/-- DESTUFF on a stream with a missing guard ends in STUFF_VIOLATION with the guard's index (R153, R190). -/
theorem exec_destuff_violation {s : State} {t : Nat} (hready : DataReady s)
    (hfail : destuffBits (dataBits s) = .error t) :
    exec .destuff s = .next (errorComplete ⟨.stuffViolation, lengthWord t⟩ s) := by
  apply exec_of_reportedError
  rw [reportedError_destuff, (dataLengthError_eq_none s).2 hready, hfail]
  rfl

/-- Settles O38: a stream is stuffed up to its first missing guard, and DESTUFF reads it back up to there. -/
theorem violationIsAMissingGuard : Obligations.ViolationIsAMissingGuard := by
  intro s t hready
  refine ⟨?_, exec_destuff_violation hready⟩
  rw [← length_dataBits s]
  exact destuffBits_eq_error_iff (dataBits s) t

end Sys2Proof.Machine
end

section
/-! Decode and encode in both directions, for words and for the table's numbers (R70, R71). -/

namespace Sys2Proof

/-- A number that fits 32 bits is a command of the table exactly when it is that command's word. -/
theorem decodeTableWord_eq_some_iff (i : Instr) {n : Nat} (hn : n < 2 ^ 32) :
    decodeTableWord 32 n = some i ↔ n = (encode i).toNat := by
  have hword : decode (BitVec.ofNat 32 n) = .ok i ↔ n = (encode i).toNat := by
    rw [decode_eq_ok_iff, ← BitVec.toNat_inj, BitVec.toNat_ofNat, Nat.mod_eq_of_lt hn]
  rw [← hword, decodeTableWord, Nat.mod_eq_of_lt hn, if_pos hn]
  cases decode (BitVec.ofNat 32 n) <;> simp

/-- Settles O2: a word decodes to a command exactly when it is that command's full word. -/
theorem decodeAndEncodeAgree : Obligations.DecodeAndEncodeAgree :=
  ⟨fun i _ => (decode_eq_ok_iff (encode i) i).2 rfl, fun w i h => ((decode_eq_ok_iff w i).1 h).symm,
    fun i _ hn => decodeTableWord_eq_some_iff i hn⟩

/-- Settles O3: each word is decoded from its two fields. -/
theorem writtenOutWordsDecode : Obligations.WrittenOutWordsDecode := by
  unfold Obligations.WrittenOutWordsDecode
  decide

end Sys2Proof
end

section
/-! The parity count (R130): the least number of parity bits that covers its own positions and the data's. -/

namespace Sys2Proof.Machine

/-- `r` parity bits cover `m` data positions and their own (R130). -/
def Covers (m r : Nat) : Prop := m + r + 1 ≤ 2 ^ r

/-- One more parity bit covers one position more at least. -/
theorem Covers.mono {m r r' : Nat} (h : Covers m r) (hr : r ≤ r') : Covers m r' := by
  unfold Covers at *
  induction r', hr using Nat.le_induction with
  | base => exact h
  | succ k _ ih =>
    have := Nat.two_pow_pos k
    rw [Nat.pow_succ]
    omega

/-- `m + 1` parity bits always cover `m` data positions (R130). -/
theorem covers_succ (m : Nat) : Covers m (m + 1) := by
  have : m < 2 ^ m := Nat.lt_two_pow_self
  rw [Covers, Nat.pow_succ]
  omega

/-- The loop stops at a count that covers, and every count it has passed does not. -/
theorem parityCountFrom_spec (m fuel r : Nat) (hfuel : m + 1 ≤ fuel + r) (hpast : ∀ r' < r, ¬ Covers m r') :
    Covers m (parityCountFrom fuel m r) ∧ ∀ r' < parityCountFrom fuel m r, ¬ Covers m r' := by
  induction fuel generalizing r with
  | zero => exact ⟨(covers_succ m).mono (show m + 1 ≤ r by omega), hpast⟩
  | succ fuel ih =>
    rw [parityCountFrom]
    split_ifs with hshort
    · refine ih (r + 1) (by omega) fun r' hr' => ?_
      obtain hlt | rfl := Nat.lt_succ_iff_lt_or_eq.1 hr'
      · exact hpast r' hlt
      · exact Nat.not_le.2 hshort
    · exact ⟨Nat.not_lt.1 hshort, hpast⟩

theorem covers_parityCount (m : Nat) : Covers m (parityCount m) :=
  (parityCountFrom_spec m (m + 1) 0 (by omega) (by simp)).1

theorem not_covers_of_lt {m r : Nat} (h : r < parityCount m) : ¬ Covers m r :=
  (parityCountFrom_spec m (m + 1) 0 (by omega) (by simp)).2 r h

/-- A count covers exactly from the parity count on. -/
theorem covers_iff (m r : Nat) : Covers m r ↔ parityCount m ≤ r :=
  ⟨fun h => not_lt.1 fun hlt => not_covers_of_lt hlt h, (covers_parityCount m).mono⟩

/-- The closed range of the lengths with `r` parity bits (R130). -/
theorem parityCount_eq {m r : Nat} (hr : 1 ≤ r) (hlow : 2 ^ (r - 1) + 1 ≤ m + r) (hhigh : m + r + 1 ≤ 2 ^ r) :
    parityCount m = r := by
  have hle : parityCount m ≤ r := (covers_iff m r).1 hhigh
  have hlt : ¬ parityCount m ≤ r - 1 := fun h => by
    have := (covers_iff m (r - 1)).2 h
    unfold Covers at this
    omega
  omega

/-- Within the capacity 11 parity bits are enough (R134). -/
theorem parityCount_le {m : Nat} (h : m ≤ 1024) : parityCount m ≤ 11 :=
  (covers_iff m 11).1 (by unfold Covers; omega)

/-- Settles O30: a count covers exactly from the parity count on. -/
theorem parityCountIsLeast : Obligations.ParityCountIsLeast := by
  refine ⟨covers_parityCount, fun m r h => Nat.not_le.1 (not_covers_of_lt h),
    fun m r hr => parityCount_eq (by omega), rfl, ?_, ?_⟩
  · exact parityCount_eq (by decide) (by decide) (by decide)
  · exact parityCount_eq (by decide) (by decide) (by decide)

/-! ### The layout of the positions -/

/-- `isPow2` finds the powers of two (R10). -/
theorem isPow2_iff (i : Nat) : isPow2 i = true ↔ ∃ j, i = 2 ^ j := by
  rw [isPow2, beq_iff_eq]
  constructor
  · exact fun h => ⟨_, h.symm⟩
  · rintro ⟨j, rfl⟩
    rw [Nat.log2_two_pow]

/-- Within `n < 2 ^ r` positions the powers of two are the first `r` (R131). -/
theorem isPow2_iff_of_lt {n r i : Nat} (hn : n < 2 ^ r) (hi : i ≤ n) :
    isPow2 i = true ↔ ∃ j, j < r ∧ i = 2 ^ j := by
  rw [isPow2_iff]
  constructor
  · rintro ⟨j, rfl⟩
    exact ⟨j, (Nat.pow_lt_pow_iff_right (by decide)).1 (hi.trans_lt hn), rfl⟩
  · rintro ⟨j, _, rfl⟩
    exact ⟨j, rfl⟩

/-- A position between two neighbouring powers of two is none. -/
theorem isPow2_eq_false {n r : Nat} (hlow : 2 ^ (r - 1) < n) (hhigh : n < 2 ^ r) : isPow2 n = false := by
  rw [Bool.eq_false_iff, Ne, isPow2_iff]
  rintro ⟨j, rfl⟩
  have h1 := (Nat.pow_lt_pow_iff_right (by decide)).1 hlow
  have h2 := (Nat.pow_lt_pow_iff_right (by decide)).1 hhigh
  omega

/-- The positions that are no power of two are those left when the first `r` powers are taken (R131). -/
theorem length_dataPositions {n r : Nat} (hlow : ∀ j < r, 2 ^ j ≤ n) (hhigh : n < 2 ^ r) :
    ((List.range' 1 n).filter (fun i => !isPow2 i)).length = n - r := by
  have hpow : ((List.range' 1 n).filter (fun i => isPow2 i)).Perm ((List.range r).map (2 ^ ·)) := by
    rw [List.perm_ext_iff_of_nodup (List.Nodup.filter _ List.nodup_range')
      (List.nodup_range.map (Nat.pow_right_injective (by decide)))]
    intro i
    simp only [List.mem_filter, List.mem_range'_1, List.mem_map, List.mem_range]
    constructor
    · rintro ⟨⟨_, hi⟩, hpow⟩
      obtain ⟨j, hj, rfl⟩ := (isPow2_iff_of_lt hhigh (by omega)).1 hpow
      exact ⟨j, hj, rfl⟩
    · rintro ⟨j, hj, rfl⟩
      have := hlow j hj
      exact ⟨⟨Nat.two_pow_pos j, by omega⟩, (isPow2_iff _).2 ⟨j, rfl⟩⟩
  have hlen := hpow.length_eq
  rw [List.length_map, List.length_range] at hlen
  have hsplit : (List.range' 1 n).length = _ := List.length_eq_length_filter_add fun i => isPow2 i
  rw [List.length_range'] at hsplit
  omega

/-- Two powers of two share a '1' bit exactly when they are the same. -/
theorem two_pow_and_ne_zero_iff (j k : Nat) : 2 ^ j &&& 2 ^ k ≠ 0 ↔ j = k := by
  rw [Nat.and_two_pow, Nat.testBit_two_pow]
  by_cases h : j = k <;> simp [h]

/-- The bounds of the last position for a non-empty dataword (R131). -/
theorem lastPosition_bounds {m : Nat} (hm : 1 ≤ m) :
    2 ≤ parityCount m ∧ 2 ^ (parityCount m - 1) < m + parityCount m ∧ m + parityCount m < 2 ^ parityCount m := by
  have hone : ¬ parityCount m ≤ 1 := fun h => by
    have := (covers_iff m 1).2 h
    unfold Covers at this
    omega
  have hprev : ¬ Covers m (parityCount m - 1) := not_covers_of_lt (by omega)
  have hcovers := covers_parityCount m
  unfold Covers at hprev hcovers
  omega

/-- The powers below the parity count are positions (R131). -/
theorem two_pow_le_lastPosition {m j : Nat} (hj : j < parityCount m) : 2 ^ j ≤ m + parityCount m := by
  have hshort := not_covers_of_lt hj
  unfold Covers at hshort
  omega

/-- Settles O31: the last position lies strictly between the last power below the parity count and the next one. -/
theorem hammingLayoutFacts : Obligations.HammingLayoutFacts := by
  refine ⟨rfl, fun m hm => ?_⟩
  obtain ⟨htwo, hlow, hhigh⟩ := lastPosition_bounds hm
  refine ⟨htwo, hlow, hhigh, fun i _ hi => isPow2_iff_of_lt hhigh hi, fun j hj => two_pow_le_lastPosition hj,
    isPow2_eq_false hlow hhigh, ?_, fun j k _ _ => two_pow_and_ne_zero_iff j k⟩
  rw [length_dataPositions (fun j hj => two_pow_le_lastPosition hj) hhigh, Nat.add_sub_cancel]

end Sys2Proof.Machine
end

section
/-! STUFF as bit-strings: its output read run by run (R152), its length, and the round trip with DESTUFF (R154). -/

namespace Sys2Proof.Machine

/-! ### One guard per long run -/

theorem stuffFrom_concat_of_not_due {m : StuffScratch} {x : Bits} {b : Bool}
    (h : guardDue (stepOrig b (x.foldl afterBit m)) = false) :
    stuffFrom m (x ++ [b]) = ((stuffFrom m x).1 ++ [b], (stuffFrom m x).2) := by
  rw [stuffFrom_append, stuffFrom_cons_of_not_due h]
  simp [stuffFrom]

/-- A guard is due after a stream's last bit exactly when R152's reading of the runs puts one there. -/
theorem guardDue_concat_eq (x : Bits) (b : Bool) :
    guardDue (stepOrig b (x.foldl afterBit stuffStart)) = fifthOfRun (x ++ [b]) x.length := by
  have hlast := fifthOfRun_last_iff (x ++ [b])
  rw [List.length_append, List.length_singleton, Nat.add_sub_cancel] at hlast
  rw [Bool.eq_iff_iff, guardDue_last_iff, hlast]

/-- Whether a character is the fifth of its run depends on nothing after it. -/
theorem fifthOfRun_append {x : Bits} {t : Nat} (h : t < x.length) (y : Bits) :
    fifthOfRun (x ++ y) t = fifthOfRun x t := by
  have hchar : ∀ j, (x ++ y).getD (t - j) false = x.getD (t - j) false := fun j =>
    List.getD_append _ _ _ _ (by omega)
  simp only [fifthOfRun, hchar]

/-- The guards of a longer stream are those of the stream, and one after the new bit if it is a fifth (R152). -/
theorem withGuards_concat (x : Bits) (b : Bool) :
    withGuards (x ++ [b]) = withGuards x ++ if fifthOfRun (x ++ [b]) x.length then [b, false] else [b] := by
  have hlast : (x ++ [b]).getD x.length false = b := by simp
  rw [withGuards, List.length_append, List.length_singleton, List.range_succ, List.flatMap_append,
    List.flatMap_singleton, hlast]
  congr 1
  refine List.flatMap_congr fun t ht => ?_
  have hlt : t < x.length := List.mem_range.1 ht
  rw [fifthOfRun_append hlt, List.getD_append _ _ _ _ hlt]

/-- The number of runs of five or more in a longer stream. -/
theorem length_filter_fifthOfRun_concat (x : Bits) (b : Bool) :
    ((List.range (x ++ [b]).length).filter (fifthOfRun (x ++ [b]))).length =
      ((List.range x.length).filter (fifthOfRun x)).length + (fifthOfRun (x ++ [b]) x.length).toNat := by
  rw [List.length_append, List.length_singleton, List.range_succ, List.filter_append, List.length_append,
    List.filter_congr fun t ht => fifthOfRun_append (List.mem_range.1 ht) [b]]
  cases h : fifthOfRun (x ++ [b]) x.length <;> simp [h]

/-- STUFF's output and count are R152's reading of the runs. -/
theorem stuffBits_eq (x : Bits) :
    stuffBits x = (withGuards x, ((List.range x.length).filter (fifthOfRun x)).length) := by
  induction x using List.reverseRecOn with
  | nil => rfl
  | append_singleton x b ih =>
    have hdue := guardDue_concat_eq x b
    rw [stuffBits] at ih
    rw [stuffBits, withGuards_concat, length_filter_fifthOfRun_concat]
    cases h : fifthOfRun (x ++ [b]) x.length with
    | true =>
      rw [h] at hdue
      rw [stuffFrom_append, stuffFrom_cons_of_due hdue, ih]
      rfl
    | false =>
      rw [h] at hdue
      rw [stuffFrom_concat_of_not_due hdue, ih]
      rfl

/-! ### Lengths -/

/-- Every guard lengthens the stream by one bit (R151). -/
theorem length_stuffFrom (m : StuffScratch) (x : Bits) :
    (stuffFrom m x).1.length = x.length + (stuffFrom m x).2 := by
  induction x generalizing m with
  | nil => rfl
  | cons b x ih =>
    cases h : guardDue (stepOrig b m) with
    | true => simp only [stuffFrom_cons_of_due h, List.length_cons, ih]; omega
    | false => simp only [stuffFrom_cons_of_not_due h, List.length_cons, ih]; omega

theorem length_stuffBits (x : Bits) : (stuffBits x).1.length = x.length + (stuffBits x).2 :=
  length_stuffFrom stuffStart x

/-- How many bits of its period of six the machine has behind it: the '1's counted and the '0' that opened the gate. -/
def periodDone (m : StuffScratch) : Nat := if m.gate then m.run + 1 else 0

/-- A guard needs a '0' that opens the gate and five '1's, so there is at most one for every six bits (R152). -/
theorem six_mul_guards_le (m : StuffScratch) (x : Bits) : 6 * (stuffFrom m x).2 ≤ x.length + periodDone m := by
  induction x generalizing m with
  | nil => simp [stuffFrom]
  | cons b x ih =>
    cases h : guardDue (stepOrig b m) with
    | true =>
      obtain ⟨_, hrun, hgate⟩ := (guardDue_stepOrig_iff b m).1 h
      have hrest := ih stuffGuarded
      have hdone : periodDone m = 5 := by simp [periodDone, hrun, hgate]
      have hzero : periodDone stuffGuarded = 0 := rfl
      simp only [stuffFrom_cons_of_due h, List.length_cons]
      omega
    | false =>
      have hrest := ih (stepOrig b m)
      have hstep : periodDone (stepOrig b m) ≤ periodDone m + 1 := by
        cases b <;> cases hg : m.gate <;> simp [periodDone, stepOrig, hg]
      simp only [stuffFrom_cons_of_not_due h, List.length_cons]
      omega

theorem guards_stuffBits_le (x : Bits) : (stuffBits x).2 ≤ (x.length + 5) / 6 := by
  have h := six_mul_guards_le stuffStart x
  have hstart : periodDone stuffStart = 1 := rfl
  rw [stuffBits]
  omega

/-! ### A single long run -/

/-- With the gate closed no '1' brings a guard (R150). -/
theorem stuffFrom_replicate_true (n run : Nat) :
    stuffFrom { run := run, gate := false } (List.replicate n true) = (List.replicate n true, 0) := by
  induction n generalizing run with
  | zero => rfl
  | succ n ih =>
    have hdue : guardDue (stepOrig true { run := run, gate := false }) = false := by simp [guardDue, stepOrig]
    have hnext : stepOrig true { run := run, gate := false } = { run := run + 1, gate := false } := rfl
    rw [List.replicate_succ, stuffFrom_cons_of_not_due hdue, hnext, ih]

/-- A single long run gets its guard after the fifth '1' and no other (R152). -/
theorem stuffBits_replicate_true {n : Nat} (hn : 5 ≤ n) :
    (stuffBits (List.replicate n true)).1 = List.replicate 5 true ++ false :: List.replicate (n - 5) true := by
  obtain ⟨k, rfl⟩ := Nat.exists_eq_add_of_le hn
  have hscratch : (List.replicate 5 true).foldl afterBit stuffStart = { run := 0, gate := false } := by decide
  have hfive : (stuffFrom stuffStart (List.replicate 5 true)).1 = List.replicate 5 true ++ [false] := by decide
  rw [stuffBits, List.replicate_add, stuffFrom_append, hscratch, stuffFrom_replicate_true, hfive,
    Nat.add_sub_cancel_left, List.append_assoc]
  rfl

/-- Settles O35: STUFF inserts its guards where R152's reading of the runs has them, and each takes six bits. -/
theorem oneGuardPerLongRun : Obligations.OneGuardPerLongRun := fun x =>
  ⟨congrArg Prod.fst (stuffBits_eq x), congrArg Prod.snd (stuffBits_eq x), length_stuffBits x, guards_stuffBits_le x,
    fun _ hn => stuffBits_replicate_true hn⟩

/-! ### The round trip -/

/-- DESTUFF undoes STUFF (R154). -/
theorem destuffBits_stuffBits (x : Bits) : destuffBits (stuffBits x).1 = .ok (x, (stuffBits x).2) :=
  destuffFrom_stuffFrom stuffStart 0 x

/-- What DESTUFF accepts is a stuffed stream, and it finds the stream that was stuffed (R154). -/
theorem destuffBits_eq_ok_iff (y x : Bits) (k : Nat) : destuffBits y = .ok (x, k) ↔ stuffBits x = (y, k) := by
  constructor
  · intro hok
    obtain ⟨x', rfl⟩ | ⟨x', b, z, hdue, hz, rfl⟩ := stuffed_or_missing_guard stuffStart y
    · have hback := (destuffBits_stuffBits x').symm.trans hok
      obtain ⟨rfl, rfl⟩ := Prod.mk.inj (Except.ok.inj hback)
      rfl
    · rw [destuffBits, destuffFrom_missing_guard hdue hz] at hok
      cases hok
  · intro hstuff
    simpa [hstuff] using destuffBits_stuffBits x

/-- Settles O36: DESTUFF accepts exactly the outputs of STUFF. -/
theorem stuffingRoundTrip : Obligations.StuffingRoundTrip := by
  refine ⟨destuffBits_stuffBits, fun y x k => (destuffBits_eq_ok_iff y x k).1, fun y => ⟨?_, fun hnone => ?_⟩⟩
  · rintro ⟨t, hfail⟩ x rfl
    rw [destuffBits_stuffBits] at hfail
    cases hfail
  · cases h : destuffBits y with
    | error t => exact ⟨t, rfl⟩
    | ok r => exact absurd (congrArg Prod.fst ((destuffBits_eq_ok_iff y r.1 r.2).1 h)) (hnone r.1)

/-- The stream DESTUFF gives is shorter by the guards it has taken out (R153). -/
theorem length_of_destuffBits {y x : Bits} {k : Nat} (h : destuffBits y = .ok (x, k)) : y.length = x.length + k := by
  simpa [(destuffBits_eq_ok_iff y x k).1 h] using length_stuffBits x

end Sys2Proof.Machine
end

section
/-! What a command does, said once for every command: the error of its row of R183 is completed, or its outputs are
assigned and it completes (R75, R79, R182). -/

namespace Sys2Proof.Machine

/-! ### The outcome of a command -/

/-- The stream without its guards and their number, for a stream in which every guard due is there (R153). -/
def destuffed (y : Bits) : Bits × Nat := (destuffBits y).toOption.getD ([], 0)

theorem destuffed_eq {y : Bits} {r : Bits × Nat} (h : destuffBits y = .ok r) : destuffed y = r := by
  rw [destuffed, h]
  rfl

/-- The state with a command's outputs assigned, where none of its checks fails (R103, R104, R133, R134, R151, R153,
R170). -/
def assigned : Instr → State → State
  | .crcEnc, s => writeAux (s.glen.toNat - 1) (writeRem (crcEncodeRem (dataBits s) (genBits s))
      (writeDout (dataBits s ++ crcEncodeRem (dataBits s) (genBits s)) s))
  | .crcVer, s => writeCrcOk (crcVerifyRem (dataBits s) (genBits s) == 0) (writeAux (s.glen.toNat - 1)
      (writeRem (bin (crcVerifyRem (dataBits s) (genBits s)) (s.glen.toNat - 1)) s))
  | .hamPcount, s => writeAux (parityCount s.dlen.toNat) s
  | .hamEnc, s => writeAux (parityCount s.dlen.toNat) (writeDout (hammingCode (dataBits s)) s)
  | .stuff, s => writeAux (stuffBits (dataBits s)).2 (writeDout (stuffBits (dataBits s)).1 s)
  | .destuff, s => writeAux (destuffed (dataBits s)).2 (writeDout (destuffed (dataBits s)).1 s)
  | .clr, s => clearRegisters s

/-- DESTUFF reports no error exactly within the capacity on a stream in which every guard due is there (R153, R183). -/
theorem reportedError_destuff_eq_none {s : State} :
    reportedError .destuff s = none ↔ DataReady s ∧ ∃ r, destuffBits (dataBits s) = .ok r := by
  rw [reportedError_destuff, ← dataLengthError_eq_none]
  cases dataLengthError s <;> cases destuffBits (dataBits s) <;> simp

/-- A command of the CRC family reports no error exactly on ready inputs (R183). -/
theorem reportedError_crc_eq_none {s : State} :
    (reportedError .crcEnc s = none ↔ CrcReady s) ∧ (reportedError .crcVer s = none ↔ CrcReady s) := by
  rw [(reportedError_crc s).1, (reportedError_crc s).2, crcInputError_eq_none]
  exact ⟨Iff.rfl, Iff.rfl⟩

/-- HAM_PCOUNT, HAM_ENC and STUFF report no error exactly within the capacity (R183). -/
theorem reportedError_data_eq_none {i : Instr} {s : State} (hi : i = .hamPcount ∨ i = .hamEnc ∨ i = .stuff) :
    reportedError i s = none ↔ DataReady s := by
  obtain rfl | rfl | rfl := hi <;> exact dataLengthError_eq_none s

/-- Within the capacity the Hamming codeword and the stuffed stream fit DOUT (R134, R151). -/
theorem outputs_fit {s : State} (h : DataReady s) :
    s.dlen.toNat + parityCount s.dlen.toNat ≤ 2048 ∧ (stuffBits (dataBits s)).1.length ≤ 2048 := by
  have hlen : s.dlen.toNat ≤ 1024 := h
  have hparity := parityCount_le hlen
  have hguards := guards_stuffBits_le (dataBits s)
  rw [length_stuffBits, length_dataBits]
  rw [length_dataBits] at hguards
  omega

/-- A command whose row of R183 reports no error has a body that assigns its outputs. -/
theorem commandBody_of_no_error {i : Instr} {s : State} (h : reportedError i s = none) :
    commandBody i s = .ok (assigned i s) := by
  cases i with
  | crcEnc => exact crcEncode_ready (reportedError_crc_eq_none.1.1 h)
  | crcVer => exact crcVerify_ready (reportedError_crc_eq_none.2.1 h)
  | hamPcount => exact hammingCount_ready ((reportedError_data_eq_none (by simp)).1 h)
  | hamEnc =>
    have hready : DataReady s := (reportedError_data_eq_none (by simp)).1 h
    simp only [commandBody, hammingEncode, (dataLengthError_eq_none s).2 hready,
      (outputLengthError_eq_none _).2 (outputs_fit hready).1, assigned]
  | stuff =>
    have hready : DataReady s := (reportedError_data_eq_none (by simp)).1 h
    simp only [commandBody, stuffBody, (dataLengthError_eq_none s).2 hready,
      (outputLengthError_eq_none _).2 (outputs_fit hready).2, assigned]
  | destuff =>
    obtain ⟨hready, r, hok⟩ := reportedError_destuff_eq_none.1 h
    simp only [commandBody, destuffBody, (dataLengthError_eq_none s).2 hready, hok, assigned, destuffed_eq hok]
  | clr => rfl

/-- The state a command ends in. -/
def outcome (i : Instr) (s : State) : State :=
  match reportedError i s with
  | some e => errorComplete e s
  | none => complete (assigned i s)

theorem outcome_of_error {i : Instr} {s : State} {e : CmdError} (h : reportedError i s = some e) :
    outcome i s = errorComplete e s := by
  rw [outcome, h]

theorem outcome_of_no_error {i : Instr} {s : State} (h : reportedError i s = none) :
    outcome i s = complete (assigned i s) := by
  rw [outcome, h]

/-- Every command ends in a next state (R180). -/
theorem exec_eq (i : Instr) (s : State) : exec i s = .next (outcome i s) := by
  cases h : reportedError i s with
  | some e => rw [outcome_of_error h, exec_of_reportedError h]
  | none => rw [outcome_of_no_error h, exec_eq_finish, commandBody_of_no_error h, finish_ok]

theorem exec_eq_next_iff {i : Instr} {s t : State} : exec i s = .next t ↔ t = outcome i s := by
  rw [exec_eq, Host.Outcome.next.injEq, eq_comm]

theorem exec_of_no_error {i : Instr} {s : State} (h : reportedError i s = none) :
    exec i s = .next (complete (assigned i s)) := by
  rw [exec_eq, outcome_of_no_error h]

/-- A command ends in its error's completion, or in its completion with the outputs assigned. -/
theorem outcome_cases (i : Instr) (s : State) :
    (∃ e, reportedError i s = some e ∧ outcome i s = errorComplete e s) ∨
    (reportedError i s = none ∧ outcome i s = complete (assigned i s)) := by
  cases h : reportedError i s with
  | some e => exact .inl ⟨e, rfl, outcome_of_error h⟩
  | none => exact .inr ⟨rfl, outcome_of_no_error h⟩

/-- A command ends with DONE set and BUSY cleared, whatever its outcome (R75, R182). -/
theorem outcome_done_busy (i : Instr) (s : State) :
    (outcome i s).status.done = true ∧ (outcome i s).status.busy = false := by
  obtain ⟨e, _, h⟩ | ⟨_, h⟩ := outcome_cases i s <;> rw [h] <;> exact ⟨rfl, rfl⟩

/-- The state the completion step of a word ends in (R79). -/
def executed (w : Word) (s : State) : State :=
  match decode w with
  | .ok i => outcome i s
  | .error _ => errorComplete ⟨.illegalCmd, w⟩ s

theorem executed_of_decode {w : Word} {i : Instr} (h : decode w = .ok i) (s : State) :
    executed w s = outcome i s := by
  rw [executed, h]

theorem executed_of_illegal {w : Word} {d : DecodeError} (h : decode w = .error d) (s : State) :
    executed w s = errorComplete ⟨.illegalCmd, w⟩ s := by
  rw [executed, h]

/-- The completion step of a word is a command's outcome or the error completion of an illegal word (R79). -/
theorem executed_cases (w : Word) (s : State) :
    (∃ i, decode w = .ok i ∧ executed w s = outcome i s) ∨
    (∃ d, decode w = .error d ∧ executed w s = errorComplete ⟨.illegalCmd, w⟩ s) := by
  cases h : decode w with
  | ok i => exact .inl ⟨i, rfl, executed_of_decode h s⟩
  | error d => exact .inr ⟨d, rfl, executed_of_illegal h s⟩

theorem execute_eq (w : Word) (s : State) : execute w s = .next (executed w s) := by
  obtain ⟨i, hdec, h⟩ | ⟨d, hdec, h⟩ := execute_cases w s
  · rw [h, executed_of_decode hdec, exec_eq]
  · rw [h, executed_of_illegal hdec]

theorem executed_done_busy (w : Word) (s : State) :
    (executed w s).status.done = true ∧ (executed w s).status.busy = false := by
  obtain ⟨i, _, h⟩ | ⟨_, _, h⟩ := executed_cases w s <;> rw [h]
  · exact outcome_done_busy i s
  · exact ⟨rfl, rfl⟩

/-- A step is the completion of the word in LCMD when the engine moves, and the host's next event otherwise. -/
def stepped (s : State) : State := if engineTurn s then executed s.lcmd s else hostStep s

/-- Every step goes on (R180). -/
theorem step_eq (s : State) : step s = .next (stepped s) := by
  unfold stepped
  obtain ⟨ht, h⟩ | ⟨ht, h⟩ := step_cases s <;> rw [h, ht]
  · exact execute_eq s.lcmd s
  · rfl

/-- Settles O4: the word decoded is the one in LCMD, and the step is its execution. -/
theorem stepRunsTheDecodedCommand : Obligations.StepRunsTheDecodedCommand := by
  intro s i hb hw _ hdec
  rw [step_engine hb hw, execute, hdec]

/-- Settles O46: a step and a command each end in a next state. -/
theorem everyStepGoesOn : Obligations.EveryStepGoesOn :=
  ⟨fun s => ⟨_, step_eq s⟩, fun i s => ⟨_, exec_eq i s, outcome_done_busy i s⟩⟩

/-! ### What every command leaves alone -/

/-- The outputs of a command are no input, nor LCMD, COLL or a field of the host's (R30, R31, R36, R37). -/
theorem sameBesideResults_assigned {i : Instr} (hi : i ≠ .clr) (s : State) : SameBesideResults s (assigned i s) := by
  cases i with
  | clr => exact absurd rfl hi
  | _ => simp [SameBesideResults, assigned]

theorem sameBesideResults_outcome {i : Instr} (hi : i ≠ .clr) (s : State) : SameBesideResults s (outcome i s) := by
  obtain ⟨e, _, h⟩ | ⟨_, h⟩ := outcome_cases i s <;> rw [h]
  · exact ⟨rfl, rfl, rfl, rfl, rfl, rfl, rfl, rfl, rfl, rfl⟩
  · exact sameBesideResults_assigned hi s

/-- Settles O47: neither completion and no output write touches the input state. -/
theorem inputStateIsKept : Obligations.InputStateIsKept := by
  intro i s t hi hexec
  rw [exec_eq_next_iff.1 hexec]
  exact sameBesideResults_outcome hi s

/-- No command touches what the host has still to do. -/
theorem outcome_agenda (i : Instr) (s : State) : (outcome i s).agenda = s.agenda := by
  obtain ⟨e, _, h⟩ | ⟨_, h⟩ := outcome_cases i s <;> rw [h]
  · rfl
  · cases i <;> simp [assigned]

theorem executed_agenda (w : Word) (s : State) : (executed w s).agenda = s.agenda := by
  obtain ⟨i, _, h⟩ | ⟨_, _, h⟩ := executed_cases w s <;> rw [h]
  · exact outcome_agenda i s
  · rfl

/-- Settles O48: an error completion writes no output, and the outputs assigned are those of the command's row. -/
theorem onlyListedOutputsAreWritten : Obligations.OnlyListedOutputsAreWritten := by
  intro i s t hexec
  rw [exec_eq_next_iff.1 hexec]
  obtain ⟨e, _, h⟩ | ⟨_, h⟩ := outcome_cases i s <;> rw [h]
  · exact ⟨fun _ => ⟨rfl, rfl⟩, fun _ => rfl, fun _ _ => rfl⟩
  · refine ⟨?_, ?_, ?_⟩
    · rintro (rfl | rfl) <;> exact ⟨rfl, rfl⟩
    · rintro (rfl | rfl | rfl | rfl) <;> rfl
    · intro hver hclr
      cases i with
      | crcVer => exact absurd rfl hver
      | clr => exact absurd rfl hclr
      | _ => rfl

/-! ### What no command looks at -/

/-- The checks of R183 look at DLEN, GLEN and the bits within them (R54). -/
theorem reportedError_inputBits (i : Instr) (s : State) {din : Vector Word 32} {gen : Vector Word 2}
    (hdin : bitsOf din s.dlen.toNat = dataBits s) (hgen : bitsOf gen s.glen.toNat = genBits s) :
    reportedError i { s with din := din, gen := gen } = reportedError i s := by
  have hcrc : crcInputError { s with din := din, gen := gen } = crcInputError s := by
    simp only [crcInputError]
    by_cases hg : s.glen = 0
    · rw [if_pos hg, if_pos hg]
    · have hlen : 0 < s.glen.toNat := Nat.pos_of_ne_zero fun h => hg (BitVec.eq_of_toNat_eq h)
      have hfirst : bitAt gen 0 = bitAt s.gen 0 := by
        have h : (bitsOf gen s.glen.toNat).getD 0 false = (genBits s).getD 0 false := by rw [hgen]
        rwa [genBits, getD_bitsOf, getD_bitsOf, if_pos hlen, if_pos hlen] at h
      rw [hfirst]
  cases i with
  | crcEnc => rw [(reportedError_crc _).1, (reportedError_crc _).1, hcrc]
  | crcVer => rw [(reportedError_crc _).2, (reportedError_crc _).2, hcrc]
  | destuff =>
    have hdata : dataBits { s with din := din, gen := gen } = dataBits s := hdin
    rw [reportedError_destuff, reportedError_destuff, hdata]
    rfl
  | _ => rfl

/-- The outputs are made from DLEN, GLEN and the bits within them (R54). -/
theorem assigned_inputBits {i : Instr} (hi : i ≠ .clr) (s : State) {din : Vector Word 32} {gen : Vector Word 2}
    (hdin : bitsOf din s.dlen.toNat = dataBits s) (hgen : bitsOf gen s.glen.toNat = genBits s) :
    assigned i { s with din := din, gen := gen } = { assigned i s with din := din, gen := gen } := by
  have hdata : dataBits { s with din := din, gen := gen } = dataBits s := hdin
  have hgenBits : genBits { s with din := din, gen := gen } = genBits s := hgen
  cases i with
  | clr => exact absurd rfl hi
  | _ =>
    simp only [assigned, hdata, hgenBits]
    rfl

/-- Settles O49: neither the checks nor the outputs look past the lengths. -/
theorem bitsPastTheLengthsAreIgnored : Obligations.BitsPastTheLengthsAreIgnored := by
  intro i s t din gen hdin hgen hi hexec
  have herr := reportedError_inputBits i s hdin hgen
  rw [exec_eq_next_iff.1 hexec, exec_eq_next_iff]
  obtain ⟨e, he, h⟩ | ⟨he, h⟩ := outcome_cases i s <;> rw [h]
  · exact (outcome_of_error (herr.trans he)).symm
  · rw [outcome_of_no_error (herr.trans he), assigned_inputBits hi s hdin hgen]
    rfl

/-- The commands outside the CRC family look at no generator (R31, R73). -/
theorem outcome_generator {i : Instr} (hi : i = .hamPcount ∨ i = .hamEnc ∨ i = .stuff ∨ i = .destuff) (s : State)
    (glen : Word) (gen : Vector Word 2) :
    outcome i { s with glen := glen, gen := gen } = { outcome i s with glen := glen, gen := gen } := by
  have herr : reportedError i { s with glen := glen, gen := gen } = reportedError i s := by
    obtain rfl | rfl | rfl | rfl := hi <;> rfl
  obtain ⟨e, he, h⟩ | ⟨he, h⟩ := outcome_cases i s <;> rw [h]
  · exact outcome_of_error (herr.trans he)
  · rw [outcome_of_no_error (herr.trans he)]
    obtain rfl | rfl | rfl | rfl := hi <;> rfl

/-- HAM_PCOUNT does not look at DIN (R133). -/
theorem outcome_hamPcount_din (s : State) (din : Vector Word 32) :
    outcome .hamPcount { s with din := din } = { outcome .hamPcount s with din := din } := by
  have herr : reportedError .hamPcount { s with din := din } = reportedError .hamPcount s := rfl
  obtain ⟨e, he, h⟩ | ⟨he, h⟩ := outcome_cases .hamPcount s <;> rw [h]
  · exact outcome_of_error (herr.trans he)
  · exact outcome_of_no_error (herr.trans he)

/-- Settles O50: the outcome with other unused inputs is the outcome, those inputs put back. -/
theorem nonCrcCommandsIgnoreTheGenerator : Obligations.NonCrcCommandsIgnoreTheGenerator := by
  intro i s t glen gen din hi hexec
  rw [exec_eq_next_iff.1 hexec]
  refine ⟨exec_eq_next_iff.2 (outcome_generator hi s glen gen).symm, ?_⟩
  rintro rfl
  exact exec_eq_next_iff.2 (outcome_hamPcount_din s din).symm

/-! ### STATUS and ERRINFO -/

/-- Of STATUS a command without an error writes CRC_OK alone, by CRC_VER; CLR clears it (R104, R170). -/
theorem assigned_status (i : Instr) (s : State) :
    (assigned i s).status =
      if i = .clr then statusCleared s.status
      else if i = .crcVer then statusWithCrcOk (modDiv (val (dataBits s)) (val (genBits s)) == 0) s.status
      else s.status := by
  cases i <;> rfl

/-- CLR alone writes ERRINFO without an error (R170). -/
theorem assigned_errInfo (i : Instr) (s : State) :
    (assigned i s).errInfo = if i = .clr then 0 else s.errInfo := by
  cases i <;> rfl

/-- Settles O42: a command ends in the completion of its row's error, or completes with ERR and ERRINFO untouched. -/
theorem firstFailingCheckIsReported : Obligations.FirstFailingCheckIsReported := by
  intro s
  refine ⟨fun d hdec => by rw [execute_eq, executed_of_illegal hdec], fun i => ?_⟩
  cases h : reportedError i s with
  | some e => exact exec_of_reportedError h
  | none =>
    refine ⟨_, exec_of_no_error h, rfl, rfl, ?_, assigned_errInfo i s⟩
    rw [complete_status, statusCompleted_err, assigned_status]
    split_ifs <;> rfl

/-- The STATUS word of a command that ended without an error (R23). -/
theorem statusWord_success (crcOk coll : Bool) :
    statusWord { busy := false, done := true, err := false, crcOk := crcOk, coll := coll, errCode := 0 } =
      0x00000002#32 ||| (if coll then 0x00000010#32 else 0) ||| (if crcOk then 0x00000008#32 else 0) := by
  cases crcOk <;> cases coll <;> rfl

/-- STATUS after a success from cleared results: DONE, and CRC_OK and COLL as the command leaves them. -/
theorem complete_assigned_status (i : Instr) {s : State} (hclear : ResultsClear s) :
    (complete (assigned i s)).status =
      { busy := false, done := true, err := false, errCode := 0
        crcOk := decide (i = .crcVer ∧ modDiv (val (dataBits s)) (val (genBits s)) = 0)
        coll := decide (i ≠ .clr ∧ s.status.coll = true) } := by
  obtain ⟨_, _, _, herr, hcrcOk, hcode⟩ := hclear
  rw [complete_status, assigned_status]
  by_cases hclr : i = .clr
  · simp [hclr, statusCompleted, statusCleared]
  · by_cases hver : i = .crcVer
    · simp [hver, statusCompleted, statusWithCrcOk, herr, hcode, Bool.beq_eq_decide_eq]
    · simp [hclr, hver, statusCompleted, herr, hcode, hcrcOk]

/-- Settles O44: the STATUS word of the fields that a success leaves. -/
theorem successStatusWord : Obligations.SuccessStatusWord := by
  intro i s hclear hnone
  refine ⟨_, exec_of_no_error hnone, ?_, ?_⟩
  · obtain ⟨_, hinfo, _⟩ := hclear
    rw [complete_errInfo, assigned_errInfo, hinfo, ite_self]
  · simp only [complete_assigned_status i hclear, statusWord_success, decide_eq_true_eq]

end Sys2Proof.Machine
end

section
/-! The results of the commands outside the CRC family: a bit-string in DOUT with its length in OLEN, and a count in AUX
(R133, R134, R151, R153, R170). -/

namespace Sys2Proof.Machine

/-! ### A bit-string in a buffer -/

/-- A packed bit-string is zero past its end (R53, R55). -/
theorem bitAt_pack_tail {s : Bits} {n k : Nat} (hlen : s.length ≤ k) (hk : k < 32 * n) :
    bitAt (pack s n) k = false := by
  rw [bitAt_pack s hk, List.getD_eq_default _ _ hlen]

/-- Where DOUT and OLEN hold an output that fits, they read back as that output, zero past its end (R39, R55). -/
theorem dout_holds (t : State) {out : Bits} (hfits : out.length ≤ 2048) (hdout : t.dout = pack out 64)
    (holen : t.olen = lengthWord out.length) :
    t.olen.toNat = out.length ∧ bitsOf t.dout t.olen.toNat = out ∧
      ∀ k, t.olen.toNat ≤ k → k < 2048 → bitAt t.dout k = false := by
  have hlen : t.olen.toNat = out.length := by rw [holen, toNat_lengthWord (by omega)]
  rw [hlen, hdout]
  exact ⟨rfl, bitsOf_pack hfits, fun k hk hlt => bitAt_pack_tail hk hlt⟩

/-- The first `len` characters of a buffer are settled by what it reads back as. -/
theorem dataBits_eq {u : State} {n : Nat} {x : Bits} (hlen : u.dlen.toNat = n) (hbits : bitsOf u.din n = x) :
    dataBits u = x := by
  rw [dataBits, hlen, hbits]

/-! ### The length of the Hamming codeword -/

@[simp] theorem length_layoutFrom (count pos : Nat) (e : Bits) : (layoutFrom count pos e).length = count := by
  induction count generalizing pos e with
  | zero => rfl
  | succ count ih => rw [layoutFrom]; split_ifs <;> rw [List.length_cons, ih]

@[simp] theorem length_setParity (buf : Bits) (k : Nat) : (setParity buf k).length = buf.length := by
  simp [setParity]

@[simp] theorem length_foldl_setParity (ks : List Nat) (buf : Bits) : (ks.foldl setParity buf).length = buf.length := by
  induction ks generalizing buf with
  | nil => rfl
  | cons k ks ih => rw [List.foldl_cons, ih, length_setParity]

@[simp] theorem length_hammingBuffer (d : Bits) : (hammingBuffer d).length = d.length + parityCount d.length := by
  simp [hammingBuffer]

@[simp] theorem length_hammingCode (d : Bits) : (hammingCode d).length = d.length + parityCount d.length := by
  rw [hammingCode, List.length_reverse, length_hammingBuffer]

/-! ### The results -/

/-- A command outside the CRC family and no CLR writes neither CRC_OK nor ERRINFO nor REM. -/
theorem complete_assigned_frame (i : Instr) (hi : i = .hamPcount ∨ i = .hamEnc ∨ i = .stuff ∨ i = .destuff)
    (s : State) :
    (complete (assigned i s)).rem = s.rem ∧ (complete (assigned i s)).errInfo = s.errInfo ∧
      (complete (assigned i s)).status = { s.status with done := true, busy := false } ∧
      SameBesideResults s (complete (assigned i s)) := by
  have hclr : i ≠ .clr := by rintro rfl; simp at hi
  refine ⟨?_, ?_, ?_, sameBesideResults_assigned hclr s⟩ <;> obtain rfl | rfl | rfl | rfl := hi <;> rfl

/-- Settles O28: HAM_PCOUNT assigns AUX alone. -/
theorem parityCountResult : Obligations.ParityCountResult := by
  intro s hready
  obtain ⟨hrem, hinfo, hstatus, hsame⟩ := complete_assigned_frame .hamPcount (by simp) s
  have hle : parityCount s.dlen.toNat ≤ 11 := parityCount_le hready
  exact ⟨_, exec_of_no_error ((reportedError_data_eq_none (by simp)).2 hready), toNat_lengthWord (by omega), rfl, rfl,
    hrem, hinfo, hstatus, hsame⟩

/-- Settles O29: HAM_ENC assigns DOUT, OLEN and AUX, and its codeword fits DOUT. -/
theorem hammingEncodeResult : Obligations.HammingEncodeResult := by
  intro s hready
  have hle : parityCount s.dlen.toNat ≤ 11 := parityCount_le hready
  have hfits : (hammingCode (dataBits s)).length ≤ 2048 := by
    rw [length_hammingCode, length_dataBits]
    exact (outputs_fit hready).1
  obtain ⟨holen, hbits, htail⟩ := dout_holds (complete (assigned .hamEnc s)) hfits rfl rfl
  rw [length_hammingCode, length_dataBits] at holen
  exact ⟨_, exec_of_no_error ((reportedError_data_eq_none (by simp)).2 hready), holen, hbits, htail,
    toNat_lengthWord (by omega), complete_assigned_frame _ (by simp) s⟩

/-- Settles O33: STUFF assigns DOUT, OLEN and AUX, and the stuffed stream fits DOUT. -/
theorem stuffResult : Obligations.StuffResult := by
  intro s hready
  have hfits := (outputs_fit hready).2
  obtain ⟨holen, hbits, htail⟩ := dout_holds (complete (assigned .stuff s)) hfits rfl rfl
  rw [length_stuffBits, length_dataBits] at holen hfits
  exact ⟨_, exec_of_no_error ((reportedError_data_eq_none (by simp)).2 hready), hbits, holen, htail,
    toNat_lengthWord (by omega), complete_assigned_frame _ (by simp) s⟩

/-- Settles O34: DESTUFF assigns DOUT, OLEN and AUX, and its output is no longer than its input. -/
theorem destuffResult : Obligations.DestuffResult := by
  intro s x k hready hok
  have hlen := length_of_destuffBits hok
  have hready' : s.dlen.toNat ≤ 1024 := hready
  rw [length_dataBits] at hlen
  obtain ⟨holen, hbits, htail⟩ := dout_holds (complete (assigned .destuff s)) (show x.length ≤ 2048 by omega)
    (by simp only [assigned, destuffed_eq hok]; rfl) (by simp only [assigned, destuffed_eq hok]; rfl)
  have haux : (complete (assigned .destuff s)).aux = lengthWord k := by simp only [assigned, destuffed_eq hok]; rfl
  refine ⟨_, exec_of_no_error (reportedError_destuff_eq_none.2 ⟨hready, _, hok⟩), hbits, by omega, htail, ?_,
    complete_assigned_frame _ (by simp) s⟩
  rw [haux, toNat_lengthWord (by omega)]

/-- Settles O37: DESTUFF finds STUFF's output in DIN, or a length above its capacity. -/
theorem destuffUndoesStuffOnTheBlock : Obligations.DestuffUndoesStuffOnTheBlock := by
  intro s t u hready hstuff hlen
  obtain ⟨t', hstuff', hbits, holen, _, haux, _⟩ := stuffResult s hready
  obtain rfl : t' = t := Host.Outcome.next.inj (hstuff'.symm.trans hstuff)
  refine ⟨fun hfits hload => ?_, fun hlong => ?_⟩
  · have hdata : dataBits u = (stuffBits (dataBits s)).1 := dataBits_eq (by rw [hlen]) (hload.trans hbits)
    have hok : destuffBits (dataBits u) = .ok (dataBits s, (stuffBits (dataBits s)).2) := by
      rw [hdata, destuffBits_stuffBits]
    obtain ⟨v, hv, hvbits, hvolen, _, hvaux, _⟩ := destuffResult u _ _ (by rw [DataReady, hlen]; exact hfits) hok
    refine ⟨v, hv, hvbits, BitVec.eq_of_toNat_eq ?_, BitVec.eq_of_toNat_eq (hvaux.trans haux.symm)⟩
    rw [hlen, holen] at hvolen
    omega
  · apply exec_of_reportedError
    have hover : ¬ DataReady u := by rw [DataReady, hlen]; omega
    rw [reportedError_destuff, dataLengthError_eq_some hover]
    rfl

/-- Settles O39: CLR clears every register and completes. -/
theorem clrResult : Obligations.ClrResult := fun s =>
  ⟨_, exec_clr s, statusWord_clr s.status, rfl, rfl, rfl, rfl, rfl, rfl, rfl, rfl, rfl, rfl, rfl, rfl, rfl, rfl⟩

end Sys2Proof.Machine
end

section
/-! The invariant of the block: it holds after reset, after every command issued with cleared results, and after every
host event, so it holds along every run (R26, R27, R29, R32, R34, R39, R78, R182). -/

namespace Sys2Proof.Machine

/-! ### Outputs within their lengths -/

/-- The outputs are zero past their lengths, and CRC_OK stands beside a zero remainder only (R27, R32, R39). -/
def OutputsTidy (s : State) : Prop :=
  s.olen.toNat ≤ Config.omax ∧ (∀ k, s.olen.toNat ≤ k → k < 2048 → bitAt s.dout k = false) ∧
    (∀ k, s.aux.toNat ≤ k → k < 64 → bitAt s.rem k = false) ∧
    (s.status.crcOk = true → s.rem = Vector.replicate 2 0)

/-- Zero outputs are tidy, whatever count AUX holds. -/
theorem outputsTidy_of_zero {s : State} (holen : s.olen = 0) (hrem : s.rem = Vector.replicate 2 0)
    (hdout : s.dout = Vector.replicate 64 0) : OutputsTidy s := by
  refine ⟨by simp [holen], fun k _ _ => ?_, fun k _ _ => ?_, fun _ => hrem⟩
  · rw [hdout, bitAt_zero]
  · rw [hrem, bitAt_zero]

theorem outputsTidy_of_clear {s : State} (h : OutputsClear s) : OutputsTidy s := by
  obtain ⟨holen, _, hrem, hdout⟩ := h
  exact outputsTidy_of_zero holen hrem hdout

/-- The remainder string of zero is the zero buffer. -/
theorem pack_bin_zero (w n : Nat) : pack (bin 0 w) n = Vector.replicate n 0 := by
  refine buffer_ext fun k hk => ?_
  rw [bitAt_pack _ hk, getD_bin, bitAt_zero, Nat.zero_testBit, ite_self]

/-- A remainder of the generator's length less one fits REM, and AUX is its length (R103, R104). -/
theorem rem_tail_of_pack {r : Bits} {n k : Nat} (hr : r.length = n) (hn : n < 64) (hk : (lengthWord n).toNat ≤ k)
    (hlt : k < 64) : bitAt (pack r 2) k = false := by
  rw [toNat_lengthWord (by omega)] at hk
  exact bitAt_pack_tail (by omega) hlt

theorem length_crcEncodeRem (d : Bits) (s : State) : (crcEncodeRem d (genBits s)).length = s.glen.toNat - 1 := by
  rw [crcEncodeRem, length_bin, length_genBits]

/-- The codeword of CRC_ENC is no longer than DLEN + GLEN - 1, which fits DOUT (R103). -/
theorem length_crcCodeword {s : State} (h : CrcReady s) :
    (dataBits s ++ crcEncodeRem (dataBits s) (genBits s)).length = s.dlen.toNat + s.glen.toNat - 1 ∧
      (dataBits s ++ crcEncodeRem (dataBits s) (genBits s)).length ≤ 2048 := by
  obtain ⟨hglen, hglen', _, hdlen, _⟩ := h
  rw [List.length_append, length_dataBits, length_crcEncodeRem]
  omega

/-- What a DOUT-writing command outside the CRC family leaves is tidy, where REM and CRC_OK were clear. -/
theorem outputsTidy_writeDout {s : State} (hclear : ResultsClear s) {out : Bits} (hfits : out.length ≤ 2048) (n : Nat) :
    OutputsTidy (complete (writeAux n (writeDout out s))) := by
  obtain ⟨⟨_, _, hrem, _⟩, _⟩ := hclear
  obtain ⟨holen, _, htail⟩ := dout_holds (complete (writeAux n (writeDout out s))) hfits rfl rfl
  refine ⟨by rw [holen]; exact hfits, htail, fun k _ _ => ?_, fun _ => hrem⟩
  rw [complete_rem, writeAux_rem, writeDout_rem, hrem, bitAt_zero]

/-- From cleared results, every command that raises no error leaves its outputs tidy. -/
theorem outputsTidy_assigned {i : Instr} {s : State} (hclear : ResultsClear s) (hnone : reportedError i s = none) :
    OutputsTidy (complete (assigned i s)) := by
  cases i with
  | crcEnc =>
    have hready : CrcReady s := reportedError_crc_eq_none.1.1 hnone
    obtain ⟨_, hfits⟩ := length_crcCodeword hready
    obtain ⟨_, hglen, _⟩ := hready
    obtain ⟨_, _, _, _, hcrcOk, _⟩ := hclear
    obtain ⟨holen, _, htail⟩ := dout_holds (complete (assigned .crcEnc s)) hfits rfl rfl
    refine ⟨by rw [holen]; exact hfits, htail,
      fun k hk hlt => rem_tail_of_pack (length_crcEncodeRem _ s) (by omega) hk hlt, fun hok => ?_⟩
    exact absurd (hcrcOk.symm.trans hok) (by decide)
  | crcVer =>
    obtain ⟨_, hglen, _⟩ := reportedError_crc_eq_none.2.1 hnone
    obtain ⟨hle, htail, _⟩ := outputsTidy_of_clear hclear.1
    refine ⟨hle, htail, fun k hk hlt => rem_tail_of_pack (length_bin _ _) (by omega) hk hlt, fun hok => ?_⟩
    have hzero : crcVerifyRem (dataBits s) (genBits s) = 0 := beq_iff_eq.1 hok
    calc pack (bin (crcVerifyRem (dataBits s) (genBits s)) (s.glen.toNat - 1)) 2
      _ = pack (bin 0 (s.glen.toNat - 1)) 2 := by rw [hzero]
      _ = Vector.replicate 2 0 := pack_bin_zero _ _
  | hamPcount =>
    obtain ⟨⟨holen, _, hrem, hdout⟩, _⟩ := hclear
    exact outputsTidy_of_zero holen hrem hdout
  | hamEnc =>
    refine outputsTidy_writeDout hclear ?_ _
    rw [length_hammingCode, length_dataBits]
    exact (outputs_fit ((reportedError_data_eq_none (by simp)).1 hnone)).1
  | stuff => exact outputsTidy_writeDout hclear (outputs_fit ((reportedError_data_eq_none (by simp)).1 hnone)).2 _
  | destuff =>
    obtain ⟨hready, ⟨x, k⟩, hok⟩ := reportedError_destuff_eq_none.1 hnone
    have hlen := length_of_destuffBits hok
    have hready' : s.dlen.toNat ≤ 1024 := hready
    rw [length_dataBits] at hlen
    refine outputsTidy_writeDout hclear ?_ _
    rw [destuffed_eq hok]
    show x.length ≤ 2048
    omega
  | clr => exact outputsTidy_of_clear ⟨rfl, rfl, rfl, rfl⟩

/-! ### The invariant of a state -/

/-- The invariant speaks of the block alone. -/
theorem Inv.of_blockOf_eq {s t : State} (h : Inv s) (hblock : blockOf t = blockOf s) : Inv t := by
  have hs : Inv (blockOf s) := { h with }
  rw [← hblock] at hs
  exact { hs with }

theorem inv_issue (v : Word) (s : State) : Inv (issue v s) := by
  have hclear := resultsClear_issue v s
  obtain ⟨hle, htail, hrem, hcrc⟩ := outputsTidy_of_clear hclear.1
  exact
    { err_iff := by simp
      code_legal := by simp
      busy_clear := fun _ => hclear
      failed_clear := fun h => by cases h
      info_clear := fun _ => rfl
      olen_le := hle
      dout_tail := htail
      rem_tail := hrem
      crcOk_rem := hcrc }

/-- The block after reset, whatever the host's fields, has the invariant. -/
theorem inv_resetBlock (s : State) : Inv (resetBlock s) := by
  have htidy : OutputsTidy (resetBlock s) := outputsTidy_of_clear ⟨rfl, rfl, rfl, rfl⟩
  obtain ⟨hle, htail, hrem, hcrc⟩ := htidy
  exact
    { err_iff := by simp
      code_legal := by simp
      busy_clear := fun h => by cases h
      failed_clear := fun h => by cases h
      info_clear := fun _ => rfl
      olen_le := hle
      dout_tail := htail
      rem_tail := hrem
      crcOk_rem := hcrc }

/-- Settles O51: reset leaves no result and no error. -/
theorem resetMeetsInvariant : Obligations.ResetMeetsInvariant := inv_resetBlock State.reset

/-! ### The engine's step -/

/-- ERRCODE is never 0 after an error, and never a reserved code (R29, R181). -/
theorem errorNumber_legal (c : ErrorCode) :
    errorNumber c ≠ 0 ∧ errorNumber c ∈ ([0, 1, 2, 3, 5, 6, 7] : List (BitVec 4)) := by
  cases c <;> decide

/-- An error completion of a command issued with cleared results has the invariant (R182). -/
theorem inv_errorComplete (e : CmdError) {s : State} (hclear : ResultsClear s) : Inv (errorComplete e s) := by
  obtain ⟨houtputs, hcrcOk, _⟩ := errorComplete_frame e hclear
  obtain ⟨hle, htail, hrem, hcrc⟩ := outputsTidy_of_clear houtputs
  obtain ⟨hne, hlegal⟩ := errorNumber_legal e.code
  exact
    { err_iff := iff_of_true rfl hne
      code_legal := hlegal
      busy_clear := fun h => by cases h
      failed_clear := fun _ => ⟨houtputs, hcrcOk⟩
      info_clear := fun h => by cases h
      olen_le := hle
      dout_tail := htail
      rem_tail := hrem
      crcOk_rem := hcrc }

/-- The completion of a command issued with cleared results, none of whose checks fails, has the invariant. -/
theorem inv_complete {i : Instr} {s : State} (hclear : ResultsClear s) (hnone : reportedError i s = none) :
    Inv (complete (assigned i s)) := by
  obtain ⟨hle, htail, hrem, hcrc⟩ := outputsTidy_assigned hclear hnone
  have hstatus := complete_assigned_status i hclear
  have herr : (complete (assigned i s)).status.err = false := by rw [hstatus]
  have hcode : (complete (assigned i s)).status.errCode = 0 := by rw [hstatus]
  obtain ⟨_, hinfo, _⟩ := hclear
  exact
    { err_iff := by rw [herr, hcode]; simp
      code_legal := by rw [hcode]; simp
      busy_clear := fun h => by cases h
      failed_clear := fun h => absurd (herr.symm.trans h) (by decide)
      info_clear := fun _ => by rw [complete_errInfo, assigned_errInfo, hinfo, ite_self]
      olen_le := hle
      dout_tail := htail
      rem_tail := hrem
      crcOk_rem := hcrc }

/-- The completion step keeps the invariant, whatever word is in LCMD. -/
theorem inv_executed (w : Word) {s : State} (hclear : ResultsClear s) : Inv (executed w s) := by
  obtain ⟨i, _, h⟩ | ⟨_, _, h⟩ := executed_cases w s <;> rw [h]
  · obtain ⟨e, _, h⟩ | ⟨hnone, h⟩ := outcome_cases i s <;> rw [h]
    · exact inv_errorComplete e hclear
    · exact inv_complete hclear hnone
  · exact inv_errorComplete _ hclear

/-! ### The host's step -/

/-- A write keeps the invariant: it sets COLL, is ignored, issues, or stores an input (R57, R77). -/
theorem inv_writeOffset {s : State} (h : Inv s) (off : Nat) (v : Word) : Inv (writeOffset s off v) := by
  obtain ⟨_, hw⟩ | ⟨_, hw⟩ | ⟨_, _, hw⟩ | ⟨_, dlen, glen, din, gen, hw⟩ := writeOffset_cases s off v <;> rw [hw]
  · exact { h with }
  · exact h
  · exact inv_issue v s
  · exact { h with }

theorem inv_performAccess {s : State} (h : Inv s) (a : Access) : Inv (performAccess a s) := by
  obtain ⟨_, ha⟩ | ⟨_, _, ha⟩ | ⟨_, _, _, ha⟩ | ⟨v, _, _, _, ha⟩ := performAccess_cases a s <;> rw [ha]
  · exact h.of_blockOf_eq rfl
  · exact h.of_blockOf_eq rfl
  · exact h.of_blockOf_eq rfl
  · exact (inv_writeOffset h _ v).of_blockOf_eq rfl

theorem inv_performBurst {s : State} (h : Inv s) (beats : List Access) : Inv (performBurst beats s) := by
  obtain hb | ⟨r, hb⟩ | ⟨b, rest, agenda, _, hb⟩ := performBurst_cases beats s <;> rw [hb]
  · exact h
  · exact h.of_blockOf_eq rfl
  · refine inv_performAccess ?_ b
    exact h.of_blockOf_eq rfl

theorem inv_performEvent {s : State} (h : Inv s) (e : HostEvent) : Inv (performEvent e s) := by
  cases e with
  | access a => exact inv_performAccess h a
  | burst beats => exact inv_performBurst h beats
  | reset cutOff => exact inv_resetBlock s

theorem inv_hostStep {s : State} (h : Inv s) : Inv (hostStep s) := by
  unfold hostStep
  split
  · exact h
  · refine inv_performEvent ?_ _
    exact h.of_blockOf_eq rfl

/-! ### Every step and every run -/

/-- The engine moves only while BUSY = 1. -/
theorem busy_of_engineTurn {s : State} (h : engineTurn s = true) : s.status.busy = true := by
  rw [engineTurn, Bool.and_eq_true] at h
  exact h.1

theorem inv_stepped {s : State} (h : Inv s) : Inv (stepped s) := by
  unfold stepped
  split_ifs with ht
  · exact inv_executed s.lcmd (h.busy_clear (busy_of_engineTurn ht))
  · exact inv_hostStep h

/-- Settles O52: the engine's step starts from cleared results, and a host event leaves the results alone, issues or
resets. -/
theorem stepKeepsInvariant : Obligations.StepKeepsInvariant := by
  intro s t h hstep
  obtain rfl : stepped s = t := Host.Outcome.next.inj ((step_eq s).symm.trans hstep)
  exact inv_stepped h

/-- A run whose first step goes on goes on from there. -/
theorem run_of_step_next (M : Host.Core) {s t : M.State} (h : M.step s = .next t) (k : Nat) :
    M.run (k + 1) s = M.run k t := by
  simp only [Host.Core.run, h]

theorem run_succ (k : Nat) (s : State) : core.run (k + 1) s = core.run k (stepped s) :=
  run_of_step_next core (step_eq s) k

/-- Every run goes on and keeps the invariant. -/
theorem run_keeps_inv (k : Nat) {s : State} (h : Inv s) : ∃ t, core.run k s = .next t ∧ Inv t := by
  induction k generalizing s with
  | zero => exact ⟨s, rfl, h⟩
  | succ k ih => rw [run_succ]; exact ih (inv_stepped h)

/-- CRC_OK is never set beside an error (R27, R182). -/
theorem Inv.no_error_of_crcOk {s : State} (h : Inv s) (hok : s.status.crcOk = true) :
    s.status.err = false ∧ s.status.errCode = 0 ∧ s.errInfo = 0 := by
  have herr : s.status.err = false := by
    rw [Bool.eq_false_iff]
    intro herr
    obtain ⟨_, hfalse⟩ := h.failed_clear herr
    exact absurd (hfalse.symm.trans hok) (by decide)
  have hcode : s.status.errCode = 0 := by
    by_contra hne
    exact absurd (herr.symm.trans (h.err_iff.2 hne)) (by decide)
  exact ⟨herr, hcode, h.info_clear herr⟩

/-- Settles O53: every run goes on and keeps the invariant, which sets CRC_OK beside no error. -/
theorem runsKeepInvariant : Obligations.RunsKeepInvariant := by
  intro k s h
  obtain ⟨t, hrun, ht⟩ := run_keeps_inv k h
  exact ⟨t, hrun, ht, ht.no_error_of_crcOk⟩

end Sys2Proof.Machine
end

section
/-! The window as a map, the words a read returns, and the steps that perform a read, a dropped write, a burst, a reset
and an access outside the window (R20, R23, R50 to R52, R56, R58, R60, R77, R78, R210). -/

namespace Sys2Proof.Machine

/-! ### The map and its words -/

/-- An aligned offset is reserved exactly in the listed ranges (R60). -/
theorem regAt_eq_none_iff {off : Nat} (ha : off % 4 = 0) : regAt off = none ↔ Reserved off := by
  refine ⟨fun h => ?_, regAt_of_reserved⟩
  obtain ⟨r, rfl⟩ | hres := aligned_offset_cases ha
  · rw [regAt_offsetOf] at h
    cases h
  · exact hres

/-- An aligned offset holds the register whose offset it is, and no other (R20). -/
theorem regAt_eq_some_iff {off : Nat} (ha : off % 4 = 0) (r : WinReg) : regAt off = some r ↔ offsetOf r = off := by
  refine ⟨fun h => ?_, fun h => by rw [← h, regAt_offsetOf]⟩
  obtain ⟨r', rfl⟩ | hres := aligned_offset_cases ha
  · rw [regAt_offsetOf] at h
    rw [Option.some.inj h]
  · rw [regAt_of_reserved hres] at h
    cases h

/-- Settles O16: an aligned offset is a register's or reserved, and a read returns that register's word or zero. -/
theorem windowMap : Obligations.WindowMap :=
  ⟨fun _ _ ha => regAt_eq_none_iff ha, fun _ r ha => regAt_eq_some_iff ha r, fun s =>
    ⟨readOffset_offsetOf s .id, readOffset_offsetOf s .cmd, readOffset_offsetOf s .status, readOffset_offsetOf s .dlen,
      readOffset_offsetOf s .glen, readOffset_offsetOf s .olen, readOffset_offsetOf s .aux,
      readOffset_offsetOf s .errInfo, readOffset_offsetOf s .capd, readOffset_offsetOf s .capg,
      readOffset_offsetOf s .capo, fun i => readOffset_offsetOf s (.din i), fun i => readOffset_offsetOf s (.gen i),
      fun i => readOffset_offsetOf s (.rem i), fun i => readOffset_offsetOf s (.dout i),
      fun _ _ hres => readOffset_of_reserved s hres⟩⟩

/-- STATUS bit by bit: the flags, three zero bits, the error code, and zero bits above it (R23). -/
theorem getLsbD_statusWord (st : Status) (k : Nat) :
    (statusWord st).getLsbD k =
      if k = 0 then st.busy else if k = 1 then st.done else if k = 2 then st.err else if k = 3 then st.crcOk
      else if k = 4 then st.coll else if k < 8 then false else st.errCode.getLsbD (k - 8) := by
  change BitVec.getLsbD (0#20 ++ st.errCode ++ 0#3 ++ BitVec.ofBool st.coll ++ BitVec.ofBool st.crcOk ++
    BitVec.ofBool st.err ++ BitVec.ofBool st.done ++ BitVec.ofBool st.busy) k = _
  simp only [BitVec.getLsbD_append, BitVec.getLsbD_ofBool, BitVec.getLsbD_zero, Nat.sub_sub]
  obtain hk | ⟨j, rfl⟩ : k < 5 ∨ ∃ j, k = j + 5 := by
    by_cases h : k < 5
    · exact .inl h
    · exact .inr ⟨k - 5, by omega⟩
  · interval_cases k <;> simp
  · have hlow : j + 5 < 8 ↔ j < 3 := by omega
    by_cases hhigh : j - 3 < 4
    · simp [hlow, hhigh]
    · have hcode : st.errCode.getLsbD (j - 3) = false := BitVec.getLsbD_of_ge _ _ (by omega)
      simp [hcode]

/-- A field of a word is the bit-vector whose bits stand there. -/
theorem extractLsb'_eq_of_bits {v : Word} {lo n : Nat} {x : BitVec n}
    (h : ∀ i < n, v.getLsbD (lo + i) = x.getLsbD i) : v.extractLsb' lo n = x :=
  BitVec.eq_of_getLsbD_eq fun i hi => by
    rw [BitVec.getLsbD_extractLsb', decide_eq_true hi, Bool.true_and, h i hi]

/-- Settles O19: the bits of STATUS, one by one. -/
theorem statusLayout : Obligations.StatusLayout := by
  intro s
  have hread : readOffset s 0x008 = statusWord s.status := readOffset_offsetOf s .status
  rw [hread]
  refine ⟨getLsbD_statusWord _ 0, getLsbD_statusWord _ 1, getLsbD_statusWord _ 2, getLsbD_statusWord _ 3,
    getLsbD_statusWord _ 4, extractLsb'_eq_of_bits fun i hi => ?_, extractLsb'_eq_of_bits fun i hi => ?_,
    extractLsb'_eq_of_bits fun i hi => ?_⟩ <;> rw [getLsbD_statusWord]
  · interval_cases i <;> rfl
  · interval_cases i <;> rfl
  · iterate 6 rw [if_neg (by omega)]
    rw [BitVec.getLsbD_of_ge _ _ (by omega)]
    exact BitVec.getLsbD_zero.symm

/-- A word is its four byte lanes, the highest first (R52). -/
theorem word_eq_append_lanes (w : Word) :
    w = (w.extractLsb' 24 8 ++ w.extractLsb' 16 8 ++ w.extractLsb' 8 8 ++ w.extractLsb' 0 8 : BitVec 32) := by
  rw [BitVec.extractLsb'_append_extractLsb'_eq_extractLsb' (by decide),
    BitVec.extractLsb'_append_extractLsb'_eq_extractLsb' (by decide),
    BitVec.extractLsb'_append_extractLsb'_eq_extractLsb' (by decide), BitVec.extractLsb'_eq_self]

/-- Settles O20: lane `i` is the byte from bit `8i` on. -/
theorem byteLanesAreLittleEndian : Obligations.ByteLanesAreLittleEndian := by
  refine fun s off => ⟨word_eq_append_lanes (readOffset s off), fun i j _ hj => ?_⟩
  rw [byteLane, BitVec.getLsbD_extractLsb', decide_eq_true hj, Bool.true_and]

/-! ### Reads while a command runs -/

/-- While a command runs with cleared results STATUS reads with BUSY, and COLL as it is (R78). -/
theorem statusWord_running {s : State} (hclear : ResultsClear s) (hb : s.status.busy = true) :
    statusWord s.status = if s.status.coll then 0x00000011#32 else 0x00000001#32 := by
  obtain ⟨_, _, hdone, herr, hcrcOk, hcode⟩ := hclear
  simp only [statusWord, hb, hdone, herr, hcrcOk, hcode]
  cases s.status.coll <;> rfl

/-- Settles O10: the invariant keeps the results cleared while a command runs. -/
theorem busyReadsShowClearedResults : Obligations.BusyReadsShowClearedResults := by
  intro s hinv hb
  have hclear := hinv.busy_clear hb
  obtain ⟨⟨holen, haux, hrem, hdout⟩, hinfo, _⟩ := hinv.busy_clear hb
  refine ⟨(readOffset_offsetOf s .status).trans (statusWord_running hclear hb), (readOffset_offsetOf s .olen).trans holen,
    (readOffset_offsetOf s .aux).trans haux, (readOffset_offsetOf s .errInfo).trans hinfo, fun i hi => ?_,
    fun i hi => ?_, readOffset_offsetOf s .dlen, readOffset_offsetOf s .glen, fun i => readOffset_offsetOf s (.din i),
    fun i => readOffset_offsetOf s (.gen i)⟩
  · refine (readOffset_offsetOf s (.rem ⟨i, hi⟩)).trans ?_
    simp [readReg, hrem]
  · refine (readOffset_offsetOf s (.dout ⟨i, hi⟩)).trans ?_
    simp [readReg, hdout]

/-! ### Whose step it is -/

/-- While the latency is not over and the host has an event pending, the engine does not move (R76). -/
theorem engineTurn_waiting {s : State} {e : HostEvent} {rest : List HostEvent} (hw : s.wait ≠ 0)
    (hag : s.agenda = e :: rest) : engineTurn s = false := by
  simp [engineTurn, hw, hag]

theorem hostStep_nothing {s : State} (hag : s.agenda = []) : hostStep s = s := by
  simp [hostStep, hag]

/-- Settles O5: with BUSY = 0 it is never the engine's turn. -/
theorem idleEngineDoesNothing : Obligations.IdleEngineDoesNothing := by
  intro s hb
  have hstep : step s = .next (hostStep s) := by
    rw [step_eq, stepped, engineTurn_idle hb, if_neg Bool.false_ne_true]
  exact ⟨hstep, fun hag => by rw [hstep, hostStep_nothing hag]⟩

/-! ### What an access sees and leaves -/

/-- While BUSY = 1 a write to any offset sets COLL and does nothing else (R77). -/
theorem writeOffset_busy {s : State} (hb : s.status.busy = true) (off : Nat) (v : Word) :
    writeOffset s off v = { s with status := statusCollided s.status } := by
  rw [writeOffset, if_pos hb]

/-- A write sees the block's registers only. -/
theorem blockOf_writeOffset (s : State) (off : Nat) (v : Word) :
    blockOf (writeOffset s off v) = blockOf (writeOffset (blockOf s) off v) := by
  cases hb : s.status.busy with
  | true =>
    have hb' : (blockOf s).status.busy = true := hb
    rw [writeOffset_busy hb, writeOffset_busy hb']
    rfl
  | false =>
    have hb' : ¬ (blockOf s).status.busy = true := ne_true_of_eq_false hb
    rw [writeOffset, if_neg (ne_true_of_eq_false hb), writeOffset, if_neg hb']
    cases regAt off with
    | none => rfl
    | some r => cases r <;> rfl

/-- The primitive read at an aligned offset of the window is taken and answered with the word there (R9, R51). -/
theorem performAccess_memRead (s : State) {off : Nat} (hlt : off < 0x1000) (ha : off % 4 = 0) :
    performAccess (memRead (Config.base + off)) s = { s with response := some (.data (readOffset s off)) } := by
  simp [performAccess, memRead, inWindow_base_add hlt, accessTaken, windowOffset, ha]

/-- An access leaves what the host has still to do. -/
@[simp] theorem performAccess_agenda (a : Access) (s : State) : (performAccess a s).agenda = s.agenda := by
  obtain ⟨_, h⟩ | ⟨_, _, h⟩ | ⟨_, _, _, h⟩ | ⟨v, _, _, _, h⟩ := performAccess_cases a s <;> rw [h]
  exact writeOffset_agenda s _ v

/-- An access sees the block's registers only, in what it does and in its response. -/
theorem performAccess_blockOf (a : Access) (s : State) :
    blockOf (performAccess a s) = blockOf (performAccess a (blockOf s)) ∧
      (performAccess a s).response = (performAccess a (blockOf s)).response := by
  unfold performAccess
  split_ifs
  · exact ⟨rfl, rfl⟩
  · exact ⟨rfl, rfl⟩
  · cases a.op with
    | read => exact ⟨rfl, by simp only [readOffset_blockOf]⟩
    | write v => exact ⟨blockOf_writeOffset s _ v, rfl⟩

theorem performAccess_congr (a : Access) (s t : State) (h : blockOf s = blockOf t) :
    blockOf (performAccess a s) = blockOf (performAccess a t) ∧
      (performAccess a s).response = (performAccess a t).response := by
  obtain ⟨hblock, hresponse⟩ := performAccess_blockOf a s
  obtain ⟨hblock', hresponse'⟩ := performAccess_blockOf a t
  rw [hblock, hresponse, hblock', hresponse', h]
  exact ⟨rfl, rfl⟩

/-! ### The steps of the host -/

/-- Settles O7: the write is dropped and sets COLL, or it gets a bus error. -/
theorem busyWriteOnlySetsColl : Obligations.BusyWriteOnlySetsColl := by
  intro s off width v rest hb hw hlt hag
  rw [step_hostEvent (engineTurn_waiting hw hag) hag, performEvent]
  split_ifs with htaken
  · obtain ⟨rfl, ha⟩ := htaken
    have hb' : (takeEvent s rest).status.busy = true := hb
    have hwrite := performAccess_memWrite (takeEvent s rest) hlt ha v
    rw [writeOffset_busy hb'] at hwrite
    exact congrArg Host.Outcome.next hwrite
  · rw [performAccess_busError rfl hlt (Decidable.not_and_iff_not_or_not.1 htaken)]
    rfl

/-- Settles O9: the read sees the word at its offset and leaves the block alone. -/
theorem readReturnsTheWordOnly : Obligations.ReadReturnsTheWordOnly := by
  intro s off rest ht hlt ha hag
  refine ⟨_, step_hostEvent ht hag, ?_⟩
  rw [performEvent, performAccess_memRead _ hlt ha, readOffset_takeEvent]
  exact ⟨rfl, rfl, rfl⟩

/-- A burst of 32-bit beats performs its first beat and puts the others back (R51). -/
theorem performBurst_cons (b : Access) (beats : List Access) (s : State) (h : ∀ a ∈ b :: beats, a.width = 32) :
    performBurst (b :: beats) s =
      performAccess b (if beats = [] then s else { s with agenda := .burst beats :: s.agenda }) := by
  have hall : (b :: beats).all (fun a => a.width == 32) = true := by
    simpa only [List.all_eq_true, beq_iff_eq] using h
  unfold performBurst
  rw [if_pos hall]
  cases beats with
  | nil => rw [if_pos rfl]
  | cons c beats => rw [if_neg (List.cons_ne_nil c beats)]

/-- A burst with a beat of another width gets one bus error if a beat lies in the window, and no response otherwise; it
performs no beat (R51). -/
theorem performBurst_rejected {beats : List Access} (h : ∃ a ∈ beats, a.width ≠ 32) (s : State) :
    performBurst beats s =
      { s with response := if beats.any (fun a => inWindow a.addr) then some .busError else none } := by
  have hall : ¬ beats.all (fun a => a.width == 32) = true := by
    simpa only [List.all_eq_true, beq_iff_eq, not_forall, exists_prop] using h
  unfold performBurst
  rw [if_neg hall]
  split_ifs <;> rfl

/-- Settles O15: a burst performs its first beat and puts the others back, or it gets one bus error. -/
theorem burstIsOneAccessPerBeat : Obligations.BurstIsOneAccessPerBeat := by
  intro s b beats rest ht hag
  refine ⟨fun hwide => ⟨_, step_hostEvent ht hag, ?_⟩, fun hother hwin => ⟨_, step_hostEvent ht hag, ?_⟩⟩
  · rw [performEvent, performBurst_cons b beats _ hwide]
    split_ifs with hlast
    · have hcongr := performAccess_congr b (takeEvent s rest) s rfl
      exact ⟨hcongr.1, hcongr.2, performAccess_agenda b _⟩
    · have hcongr := performAccess_congr b { takeEvent s rest with agenda := .burst beats :: rest } s rfl
      exact ⟨hcongr.1, hcongr.2, performAccess_agenda b _⟩
  · have hany : (b :: beats).any (fun a => inWindow a.addr) = true := by
      simpa only [List.any_eq_true] using hwin
    rw [performEvent, performBurst_rejected hother, if_pos hany]
    exact ⟨rfl, rfl, rfl⟩

/-- After reset STATUS reads as zero (R42). -/
theorem statusWord_reset : statusWord Status.reset = 0 := by decide

/-- Settles O41: the reset event gives the block its reset values and leaves the host's pending events. -/
theorem resetTakesResetValues : Obligations.ResetTakesResetValues := by
  intro s cutOff rest ht hag
  exact ⟨_, step_hostEvent ht hag, rfl, statusWord_reset, rfl⟩

/-- An address below or above the 4 KiB from BASE is outside the window (R50). -/
theorem inWindow_eq_false {addr : Nat} (h : addr < Config.base ∨ Config.base + 0x1000 ≤ addr) :
    inWindow addr = false := by
  rw [inWindow, Config.windowSize, Bool.and_eq_false_iff, decide_eq_false_iff_not, decide_eq_false_iff_not]
  omega

/-- An access outside the window is consumed without a response (R50). -/
theorem performAccess_outside {a : Access} (h : inWindow a.addr = false) (s : State) :
    performAccess a s = { s with response := none } := by
  simp only [performAccess, h, Bool.not_false, if_true]

/-- Settles O56: an access outside the window is not the block's, and neither is a burst all of whose beats are. -/
theorem accessOutsideTheWindowChangesNothing : Obligations.AccessOutsideTheWindowChangesNothing := by
  refine ⟨Nat.mul_mod_right _ _, fun s a rest ht hout hag => ?_, fun s b beats rest ht hout hag => ?_⟩
  · refine ⟨_, step_hostEvent ht hag, ?_⟩
    rw [performEvent, performAccess_outside (inWindow_eq_false hout)]
    exact ⟨rfl, rfl, rfl⟩
  · refine ⟨_, step_hostEvent ht hag, ?_⟩
    rw [performEvent]
    by_cases hwide : ∀ a ∈ b :: beats, a.width = 32
    · rw [performBurst_cons b beats _ hwide, performAccess_outside (inWindow_eq_false (hout b List.mem_cons_self))]
      split_ifs <;> exact ⟨rfl, rfl⟩
    · have hany : ¬ (b :: beats).any (fun a => inWindow a.addr) = true := by
        rw [List.any_eq_true]
        rintro ⟨a, ha, hin⟩
        exact absurd ((inWindow_eq_false (hout a ha)).symm.trans hin) (by decide)
      rw [performBurst_rejected (by simpa only [not_forall, exists_prop] using hwide), if_neg hany]
      exact ⟨rfl, rfl⟩

end Sys2Proof.Machine
end

section
/-! The latency of a command (R65, R75, R76, R195): accesses in between change nothing of it but COLL, so a command
completes with the results it would have had at once; and the latch of an idle block (R41). -/

namespace Sys2Proof.Machine

/-! ### The completion does not look at the host or at COLL -/

/-- What neither the checks nor the two completions see, the completion step of a word does not see either. -/
theorem executed_comm {F : State → State} (herr : ∀ i s, reportedError i (F s) = reportedError i s)
    (hfail : ∀ e s, errorComplete e (F s) = F (errorComplete e s))
    (hdone : ∀ i s, complete (assigned i (F s)) = F (complete (assigned i s))) (w : Word) (s : State) :
    executed w (F s) = F (executed w s) := by
  obtain ⟨i, hdec, h⟩ | ⟨_, hdec, h⟩ := executed_cases w s <;> rw [h]
  · rw [executed_of_decode hdec]
    obtain ⟨e, he, h⟩ | ⟨he, h⟩ := outcome_cases i s <;> rw [h]
    · rw [outcome_of_error ((herr i s).trans he), hfail]
    · rw [outcome_of_no_error ((herr i s).trans he), hdone]
  · rw [executed_of_illegal hdec, hfail]

/-- The completion step sees no field of the host's. -/
theorem executed_blockOf (w : Word) (s : State) : executed w (blockOf s) = blockOf (executed w s) :=
  executed_comm (fun i _ => by cases i <;> rfl) (fun _ _ => rfl) (fun i _ => by cases i <;> rfl) w s

/-- A state with COLL cleared. -/
def withoutColl (s : State) : State := { s with status := { s.status with coll := false } }

/-- The completion step does not see COLL. -/
theorem executed_withoutColl (w : Word) (s : State) : executed w (withoutColl s) = withoutColl (executed w s) :=
  executed_comm (fun i _ => by cases i <;> rfl) (fun _ _ => rfl) (fun i _ => by cases i <;> rfl) w s

theorem blockNoColl_eq (s : State) : blockNoColl s = withoutColl (blockOf s) := rfl

theorem executed_blockNoColl (w : Word) (s : State) : executed w (blockNoColl s) = blockNoColl (executed w s) := by
  rw [blockNoColl_eq, executed_withoutColl, executed_blockOf, blockNoColl_eq]

/-- Two states that agree but for the host's fields and COLL complete alike. -/
theorem executed_congr (s : State) {t : State} (h : blockNoColl t = blockNoColl s) :
    blockNoColl (executed t.lcmd t) = blockNoColl (executed s.lcmd s) := by
  have hlcmd : t.lcmd = s.lcmd := show (blockNoColl t).lcmd = (blockNoColl s).lcmd by rw [h]
  rw [hlcmd, ← executed_blockNoColl, h, executed_blockNoColl]

theorem engineStep_eq_next_iff {s u : State} : engineStep s = .next u ↔ u = executed s.lcmd s := by
  rw [engineStep, execute_eq, Host.Outcome.next.injEq, eq_comm]

/-! ### An event while a command runs -/

/-- The command of `s` is still running in `t`, which differs at most in COLL and the host's fields. -/
def StillRunning (s t : State) : Prop :=
  t.status.busy = true ∧ t.wait = s.wait ∧ blockNoColl t = blockNoColl s

/-- An access while BUSY = 1 sets COLL at most (R77, R78). -/
theorem performAccess_stillRunning {s : State} (hb : s.status.busy = true) (a : Access) :
    StillRunning s (performAccess a s) := by
  obtain ⟨_, h⟩ | ⟨_, _, h⟩ | ⟨_, _, _, h⟩ | ⟨v, _, _, _, h⟩ := performAccess_cases a s <;> rw [h]
  · exact ⟨hb, rfl, rfl⟩
  · exact ⟨hb, rfl, rfl⟩
  · exact ⟨hb, rfl, rfl⟩
  · rw [writeOffset_busy hb]
    exact ⟨hb, rfl, rfl⟩

/-- An event that is no reset lets the running command go on. -/
theorem performEvent_stillRunning {s : State} (hb : s.status.busy = true) {e : HostEvent} (he : notReset e = true) :
    StillRunning s (performEvent e s) := by
  cases e with
  | access a => exact performAccess_stillRunning hb a
  | burst beats =>
    rw [performEvent]
    obtain h | ⟨r, h⟩ | ⟨b, rest, agenda, _, h⟩ := performBurst_cases beats s <;> rw [h]
    · exact ⟨hb, rfl, rfl⟩
    · exact ⟨hb, rfl, rfl⟩
    · have hb' : { s with agenda := agenda }.status.busy = true := hb
      exact performAccess_stillRunning hb' b
  | reset cutOff => cases he

/-- An event leaves the host's other events pending, a burst its further beats before them. -/
theorem mem_agenda_performEvent {s : State} {e e' : HostEvent} (h : e' ∈ (performEvent e s).agenda) :
    e' ∈ s.agenda ∨ ∃ beats, e' = .burst beats := by
  cases e with
  | access a => exact .inl (by rwa [performEvent, performAccess_agenda] at h)
  | burst beats =>
    rw [performEvent] at h
    by_cases hwide : ∀ a ∈ beats, a.width = 32
    · cases beats with
      | nil => exact .inl h
      | cons b beats =>
        rw [performBurst_cons b beats s hwide, performAccess_agenda] at h
        split_ifs at h
        · exact .inl h
        · obtain rfl | h := List.mem_cons.1 h
          · exact .inr ⟨beats, rfl⟩
          · exact .inl h
    · rw [performBurst_rejected (by simpa only [not_forall, exists_prop] using hwide)] at h
      exact .inl h
  | reset cutOff => exact .inl h

/-- While a command runs and it is not the engine's turn, an event is pending and the latency is not over. -/
theorem pending_of_engineTurn_false {s : State} (hb : s.status.busy = true) (ht : engineTurn s = false) :
    s.wait ≠ 0 ∧ ∃ e rest, s.agenda = e :: rest := by
  simp only [engineTurn, hb, Bool.true_and, Bool.or_eq_false_iff, beq_eq_false_iff_ne, List.isEmpty_eq_false_iff] at ht
  exact ⟨ht.1, List.exists_cons_of_ne_nil ht.2⟩

theorem stepped_engine {s : State} (ht : engineTurn s = true) : stepped s = executed s.lcmd s := by
  rw [stepped, if_pos ht]

theorem stepped_hostEvent {s : State} {e : HostEvent} {rest : List HostEvent} (ht : engineTurn s = false)
    (hag : s.agenda = e :: rest) : stepped s = performEvent e (takeEvent s rest) :=
  Host.Outcome.next.inj ((step_eq s).symm.trans (step_hostEvent ht hag))

theorem stepped_nothing {s : State} (hb : s.status.busy = false) (hag : s.agenda = []) : stepped s = s := by
  rw [stepped, engineTurn_idle hb, if_neg Bool.false_ne_true, hostStep_nothing hag]

/-! ### The completion within the latency -/

/-- With no reset pending a command completes within `wait + 1` steps, and as it would have completed at once. -/
theorem run_completes (n : Nat) {s : State} (hn : s.wait = n) (hb : s.status.busy = true)
    (hreset : ∀ e ∈ s.agenda, notReset e = true) :
    ∃ (k : Nat) (t : State), k ≤ n + 1 ∧ core.run k s = .next t ∧ t.status.busy = false ∧ t.status.done = true ∧
      blockNoColl t = blockNoColl (executed s.lcmd s) := by
  induction n generalizing s with
  | zero =>
    have ht : engineTurn s = true := by simp [engineTurn, hb, hn]
    obtain ⟨hdone, hbusy⟩ := executed_done_busy s.lcmd s
    exact ⟨1, _, by omega, by rw [run_succ, stepped_engine ht]; rfl, hbusy, hdone, rfl⟩
  | succ n ih =>
    cases ht : engineTurn s with
    | true =>
      obtain ⟨hdone, hbusy⟩ := executed_done_busy s.lcmd s
      exact ⟨1, _, by omega, by rw [run_succ, stepped_engine ht]; rfl, hbusy, hdone, rfl⟩
    | false =>
      obtain ⟨_, e, rest, hag⟩ := pending_of_engineTurn_false hb ht
      rw [hag, List.forall_mem_cons] at hreset
      obtain ⟨he, hrest⟩ := hreset
      have hb' : (takeEvent s rest).status.busy = true := hb
      obtain ⟨hbusy, hwait, hblock⟩ := performEvent_stillRunning hb' he
      have hpending : ∀ e' ∈ (performEvent e (takeEvent s rest)).agenda, notReset e' = true := fun e' he' => by
        obtain hmem | ⟨beats, rfl⟩ := mem_agenda_performEvent he'
        · exact hrest e' hmem
        · rfl
      have hwait' : (performEvent e (takeEvent s rest)).wait = n := hwait.trans (by simp [takeEvent, hn])
      obtain ⟨k, t, hk, hrun, hbusy', hdone, hresult⟩ := ih hwait' hbusy hpending
      exact ⟨k + 1, t, by omega, by rw [run_succ, stepped_hostEvent ht hag, hrun], hbusy', hdone,
        hresult.trans (executed_congr s hblock)⟩

/-- BUSY falls within `wait + 1` steps, by a completion or by a reset. -/
theorem run_not_busy (n : Nat) {s : State} (hn : s.wait = n) (hb : s.status.busy = true) :
    ∃ (k : Nat) (t : State), k ≤ n + 1 ∧ core.run k s = .next t ∧ t.status.busy = false := by
  induction n generalizing s with
  | zero =>
    have ht : engineTurn s = true := by simp [engineTurn, hb, hn]
    exact ⟨1, _, by omega, by rw [run_succ, stepped_engine ht]; rfl, (executed_done_busy s.lcmd s).2⟩
  | succ n ih =>
    cases ht : engineTurn s with
    | true => exact ⟨1, _, by omega, by rw [run_succ, stepped_engine ht]; rfl, (executed_done_busy s.lcmd s).2⟩
    | false =>
      obtain ⟨_, e, rest, hag⟩ := pending_of_engineTurn_false hb ht
      have hstep := stepped_hostEvent ht hag
      cases he : notReset e with
      | true =>
        have hb' : (takeEvent s rest).status.busy = true := hb
        obtain ⟨hbusy, hwait, _⟩ := performEvent_stillRunning hb' he
        obtain ⟨k, t, hk, hrun, hbusy'⟩ := ih (hwait.trans (by simp [takeEvent, hn])) hbusy
        exact ⟨k + 1, t, by omega, by rw [run_succ, hstep, hrun], hbusy'⟩
      | false =>
        cases e with
        | reset cutOff => exact ⟨1, _, by omega, by rw [run_succ, hstep]; rfl, rfl⟩
        | _ => cases he

/-- Settles O11: every event uses up one of the latency, and the completion sets DONE. -/
theorem busyFallsAndUnresetCommandsComplete : Obligations.BusyFallsAndUnresetCommandsComplete := by
  intro s hb
  refine ⟨run_not_busy s.wait rfl hb, fun hreset => ?_⟩
  obtain ⟨k, t, hk, hrun, hbusy, hdone, _⟩ := run_completes s.wait rfl hb hreset
  exact ⟨k, t, hk, hrun, hbusy, hdone⟩

/-- Settles O12: the accesses in between change COLL at most, and the completion does not look at it. -/
theorem resultsDoNotDependOnLatency : Obligations.ResultsDoNotDependOnLatency := by
  intro s u hb hreset hengine
  obtain ⟨k, t, hk, hrun, hbusy, _, hresult⟩ := run_completes s.wait rfl hb hreset
  exact ⟨k, t, hk, hrun, hbusy, hresult.trans (congrArg blockNoColl (engineStep_eq_next_iff.1 hengine).symm)⟩

/-! ### A write and the completion that compete -/

/-- The step that performs a pending write at an aligned offset of the window. -/
theorem stepped_memWrite {s : State} (ht : engineTurn s = false) {off : Nat} (hlt : off < 0x1000) (ha : off % 4 = 0)
    {v : Word} {rest : List HostEvent} (hag : s.agenda = .access (memWrite (Config.base + off) v) :: rest) :
    stepped s = { writeOffset (takeEvent s rest) off v with response := some .ack } := by
  rw [stepped_hostEvent ht hag, performEvent, performAccess_memWrite _ hlt ha]

/-- Settles O13: the completion first leaves an idle block, which the write reaches; the write first sets COLL, which the
completion does not look at. -/
theorem writeAndCompletionBothOrders : Obligations.WriteAndCompletionBothOrders := by
  intro s u off v hb hlt ha hag hengine
  obtain rfl := engineStep_eq_next_iff.1 hengine
  refine ⟨fun hwait => ?_, fun hwait => ?_⟩
  · have ht : engineTurn s = true := by simp [engineTurn, hb, hwait]
    have hidle := engineTurn_idle (executed_done_busy s.lcmd s).2
    refine ⟨_, by rw [run_succ, stepped_engine ht, run_succ,
      stepped_memWrite hidle hlt ha ((executed_agenda s.lcmd s).trans hag)]; rfl, ?_⟩
    rw [blockOf_writeOffset (executed s.lcmd s)]
    exact blockOf_writeOffset (takeEvent (executed s.lcmd s) []) off v
  · have ht : engineTurn s = false := engineTurn_waiting (by omega) hag
    have hb' : (takeEvent s []).status.busy = true := hb
    have hfirst := stepped_memWrite ht hlt ha hag
    rw [writeOffset_busy hb'] at hfirst
    have hturn : engineTurn (stepped s) = true := by
      rw [hfirst]
      simp [engineTurn, hb, takeEvent, hwait]
    refine ⟨stepped s, executed (stepped s).lcmd (stepped s), by rw [run_succ]; rfl, ?_, ?_, ?_, ?_⟩
    · rw [hfirst]; rfl
    · rw [hfirst]; rfl
    · rw [run_succ, run_succ, stepped_engine hturn]; rfl
    · refine executed_congr s ?_
      rw [hfirst]
      rfl

/-! ### The latch of an idle block -/

/-- Two states differ in LCMD at most, and not while a command runs. -/
def SameBesideIdleLatch (s t : State) : Prop :=
  { t with lcmd := 0 } = { s with lcmd := 0 } ∧ (t.status.busy = true → t.lcmd = s.lcmd)

/-- An idle block differs from itself with another latch in LCMD alone. -/
theorem sameBesideIdleLatch_of_idle {s : State} (hb : s.status.busy = false) (w : Word) :
    SameBesideIdleLatch s { s with lcmd := w } :=
  ⟨rfl, fun h => absurd (hb.symm.trans h) (by decide)⟩

/-- No read sees LCMD (R41). -/
theorem readOffset_lcmd (s : State) (w : Word) (off : Nat) : readOffset { s with lcmd := w } off = readOffset s off := by
  unfold readOffset
  cases regAt off with
  | none => rfl
  | some r => cases r <;> rfl

/-- A write to an idle block overwrites LCMD by an issue, or keeps it and the block idle. -/
theorem writeOffset_latch {s : State} (hb : s.status.busy = false) (w : Word) (off : Nat) (v : Word) :
    SameBesideIdleLatch (writeOffset s off v) (writeOffset { s with lcmd := w } off v) := by
  have hidle : ∀ t : State, t.status = s.status → ¬ t.status.busy = true := fun t h => by simp [h, hb]
  rw [writeOffset, if_neg (hidle s rfl), writeOffset, if_neg (hidle { s with lcmd := w } rfl)]
  cases regAt off with
  | none => exact sameBesideIdleLatch_of_idle hb w
  | some r =>
    cases r with
    | cmd => exact ⟨rfl, fun _ => rfl⟩
    | _ => exact ⟨rfl, fun h => absurd h (hidle _ rfl)⟩

theorem performAccess_latch {s : State} (hb : s.status.busy = false) (w : Word) (a : Access) :
    SameBesideIdleLatch (performAccess a s) (performAccess a { s with lcmd := w }) := by
  have hidle : ∀ t : State, t.status = s.status → ¬ t.status.busy = true := fun t h => by simp [h, hb]
  unfold performAccess
  split_ifs
  · exact ⟨rfl, fun h => absurd h (hidle _ rfl)⟩
  · exact ⟨rfl, fun h => absurd h (hidle _ rfl)⟩
  · cases a.op with
    | read => exact ⟨by simp only [readOffset_lcmd], fun h => absurd h (hidle _ rfl)⟩
    | write v =>
      obtain ⟨hsame, hlcmd⟩ := writeOffset_latch hb w (windowOffset a.addr) v
      exact ⟨congrArg (fun t : State => { t with response := some .ack }) hsame, hlcmd⟩

theorem performEvent_latch {s : State} (hb : s.status.busy = false) (w : Word) (e : HostEvent) :
    SameBesideIdleLatch (performEvent e s) (performEvent e { s with lcmd := w }) := by
  cases e with
  | access a => exact performAccess_latch hb w a
  | reset cutOff => exact ⟨rfl, fun _ => rfl⟩
  | burst beats =>
    rw [performEvent, performEvent]
    by_cases hwide : ∀ a ∈ beats, a.width = 32
    · cases beats with
      | nil => exact sameBesideIdleLatch_of_idle hb w
      | cons b beats =>
        rw [performBurst_cons b beats _ hwide, performBurst_cons b beats _ hwide]
        split_ifs
        · exact performAccess_latch hb w b
        · have hb' : { s with agenda := .burst beats :: s.agenda }.status.busy = false := hb
          exact performAccess_latch hb' w b
    · have hother : ∃ a ∈ beats, a.width ≠ 32 := by simpa only [not_forall, exists_prop] using hwide
      rw [performBurst_rejected hother, performBurst_rejected hother]
      exact ⟨rfl, fun h => absurd (hb.symm.trans h) (by decide)⟩

/-- Settles O14: a host event on an idle block overwrites LCMD by an issue or a reset, or leaves the block idle. -/
theorem idleLatchHasNoEffect : Obligations.IdleLatchHasNoEffect := by
  intro s u w hb hstep
  have hb' : { s with lcmd := w }.status.busy = false := hb
  obtain rfl : stepped s = u := Host.Outcome.next.inj ((step_eq s).symm.trans hstep)
  have hsame : SameBesideIdleLatch (stepped s) (stepped { s with lcmd := w }) := by
    obtain hag | hag := eq_or_ne s.agenda []
    · have hag' : { s with lcmd := w }.agenda = [] := hag
      rw [stepped_nothing hb hag, stepped_nothing hb' hag']
      exact sameBesideIdleLatch_of_idle hb w
    · obtain ⟨e, rest, hag⟩ := List.exists_cons_of_ne_nil hag
      have hag' : { s with lcmd := w }.agenda = e :: rest := hag
      rw [stepped_hostEvent (engineTurn_idle hb) hag, stepped_hostEvent (engineTurn_idle hb') hag']
      have hidle : (takeEvent s rest).status.busy = false := hb
      exact performEvent_latch hidle w e
  exact ⟨_, step_eq _, hsame⟩

end Sys2Proof.Machine
end

section
/-! The mod-2 divider (R101) as polynomial division over GF(2) (R102): its passes shorten the dividend, a multiple of
the generator does not change the remainder, so the remainder is linear and unique. -/

namespace Sys2Proof.Machine

/-! ### `bitlen` by bits -/

theorem lt_bitlen_iff (n x : Nat) : n < bitlen x ↔ 2 ^ n ≤ x := by
  rw [← Nat.not_le, bitlen_le_iff, Nat.not_lt]

theorem bitlen_pos {x : Nat} (h : 1 ≤ x) : 0 < bitlen x := (lt_bitlen_iff 0 x).2 h

/-- A number is no longer than `n` exactly when it has no '1' from bit `n` on. -/
theorem bitlen_le_iff_testBit (x n : Nat) : bitlen x ≤ n ↔ ∀ i, n ≤ i → x.testBit i = false := by
  rw [bitlen_le_iff]
  exact ⟨fun h i hi => Nat.testBit_lt_two_pow (h.trans_le (Nat.pow_le_pow_right (by decide) hi)),
    fun h => Nat.lt_pow_two_of_testBit x h⟩

theorem testBit_of_bitlen_le {x i : Nat} (h : bitlen x ≤ i) : x.testBit i = false :=
  (bitlen_le_iff_testBit x i).1 h i (Nat.le_refl i)

/-- The leading bit is '1'. -/
theorem testBit_bitlen {x n : Nat} (h : bitlen x = n + 1) : x.testBit n = true := by
  by_contra hzero
  have hle : bitlen x ≤ n := (bitlen_le_iff_testBit x n).2 fun i hi => by
    obtain rfl | hlt := hi.eq_or_lt
    · simpa using hzero
    · exact testBit_of_bitlen_le (by omega)
  omega

/-- A '1' at bit `n` with none above it gives the length. -/
theorem bitlen_eq_of_testBit {x n : Nat} (htop : x.testBit n = true) (hle : bitlen x ≤ n + 1) :
    bitlen x = n + 1 := by
  refine Nat.le_antisymm hle (Nat.succ_le_iff.2 (Nat.not_le.1 fun h => ?_))
  exact absurd ((testBit_of_bitlen_le h).symm.trans htop) (by decide)

theorem bitlen_shiftLeft {g : Nat} (hg : 1 ≤ g) (k : Nat) : bitlen (g <<< k) = bitlen g + k := by
  refine eq_of_forall_lt_iff fun n => ?_
  rw [lt_bitlen_iff, Nat.shiftLeft_eq]
  by_cases hn : n < k
  · refine iff_of_true ?_ (by omega)
    exact (Nat.pow_le_pow_right (by decide) hn.le).trans (Nat.le_mul_of_pos_left _ hg)
  · obtain ⟨j, rfl⟩ := Nat.exists_eq_add_of_le (Nat.not_lt.1 hn)
    rw [Nat.add_comm k j, Nat.add_lt_add_iff_right, lt_bitlen_iff, Nat.pow_add,
      Nat.mul_le_mul_right_iff (Nat.two_pow_pos k)]

theorem bitlen_xor_le {x y n : Nat} (hx : bitlen x ≤ n) (hy : bitlen y ≤ n) : bitlen (x ^^^ y) ≤ n := by
  rw [bitlen_le_iff] at *
  exact Nat.xor_lt_two_pow hx hy

/-- The longer operand of an XOR gives its length. -/
theorem bitlen_xor_of_lt {x y : Nat} (h : bitlen x < bitlen y) : bitlen (x ^^^ y) = bitlen y := by
  obtain ⟨n, hn⟩ := Nat.exists_eq_add_of_lt (Nat.zero_lt_of_lt h)
  rw [Nat.zero_add] at hn
  rw [hn]
  refine bitlen_eq_of_testBit ?_ (bitlen_xor_le (by omega) (by omega))
  rw [Nat.testBit_xor, testBit_of_bitlen_le (by omega), testBit_bitlen hn, Bool.false_xor]

/-- Leading bits of two operands of the same length cancel. -/
theorem bitlen_xor_lt {x y n : Nat} (hx : bitlen x = n + 1) (hy : bitlen y = n + 1) : bitlen (x ^^^ y) ≤ n := by
  rw [bitlen_le_iff_testBit]
  intro i hi
  rw [Nat.testBit_xor]
  obtain rfl | hlt := hi.eq_or_lt
  · rw [testBit_bitlen hx, testBit_bitlen hy, Bool.xor_self]
  · rw [testBit_of_bitlen_le (by omega), testBit_of_bitlen_le (by omega), Bool.xor_self]

/-! ### The passes -/

/-- One pass: the generator, its leading 1 aligned with the dividend's, is taken away (R101). -/
def modDivPass (d g : Nat) : Nat := d ^^^ (g <<< (bitlen d - bitlen g))

theorem modDivPasses_succ (fuel d g : Nat) :
    modDivPasses (fuel + 1) d g = if bitlen g ≤ bitlen d then modDivPasses fuel (modDivPass d g) g else d := rfl

/-- A pass shortens the dividend (R101). -/
theorem bitlen_modDivPass_lt {d g : Nat} (hg : 1 ≤ g) (h : bitlen g ≤ bitlen d) :
    bitlen (modDivPass d g) < bitlen d := by
  have hpos := bitlen_pos hg
  obtain ⟨n, hn⟩ : ∃ n, bitlen d = n + 1 := ⟨bitlen d - 1, by omega⟩
  have hshift := bitlen_shiftLeft hg (bitlen d - bitlen g)
  have := bitlen_xor_lt hn (show bitlen (g <<< (bitlen d - bitlen g)) = n + 1 by omega)
  rw [modDivPass]
  omega

/-- One pass more than the excess length of the dividend changes nothing. -/
theorem modDivPasses_spare {g : Nat} (hg : 1 ≤ g) (fuel : Nat) {d : Nat} (h : bitlen d + 1 - bitlen g ≤ fuel) :
    modDivPasses (fuel + 1) d g = modDivPasses fuel d g := by
  induction fuel generalizing d with
  | zero => rw [modDivPasses_succ, if_neg (by omega)]; rfl
  | succ fuel ih =>
    rw [modDivPasses_succ (fuel + 1) d g, modDivPasses_succ fuel d g]
    split_ifs with hle
    · have := bitlen_modDivPass_lt hg hle
      exact ih (by omega)
    · rfl

/-- As many passes as the excess length of the dividend are enough (R101). -/
theorem modDivPasses_eq_modDiv {g : Nat} (hg : 1 ≤ g) {fuel d : Nat} (h : bitlen d + 1 - bitlen g ≤ fuel) :
    modDivPasses fuel d g = modDiv d g := by
  have hpos := bitlen_pos hg
  have spare : ∀ k, modDivPasses (bitlen d + 1 - bitlen g + k) d g = modDivPasses (bitlen d + 1 - bitlen g) d g := by
    intro k
    induction k with
    | zero => rfl
    | succ k ih => rw [← Nat.add_assoc, modDivPasses_spare hg _ (by omega), ih]
  obtain ⟨k, rfl⟩ := Nat.exists_eq_add_of_le h
  obtain ⟨k', hk'⟩ := Nat.exists_eq_add_of_le (show bitlen d + 1 - bitlen g ≤ bitlen d by omega)
  rw [spare, modDiv]
  conv_rhs => rw [hk', spare]

/-- A dividend shorter than the generator is its own remainder (R101). -/
theorem modDiv_of_short {d g : Nat} (h : bitlen d < bitlen g) : modDiv d g = d := by
  rw [modDiv]
  cases bitlen d with
  | zero => rfl
  | succ n => rw [modDivPasses_succ, if_neg (Nat.not_le.2 h)]

/-- A pass does not change the remainder (R101). -/
theorem modDiv_pass {d g : Nat} (hg : 1 ≤ g) (h : bitlen g ≤ bitlen d) : modDiv d g = modDiv (modDivPass d g) g := by
  have hlt := bitlen_modDivPass_lt hg h
  rw [← modDivPasses_eq_modDiv hg (show bitlen d + 1 - bitlen g ≤ bitlen d - bitlen g + 1 by omega), modDivPasses_succ,
    if_pos h, modDivPasses_eq_modDiv hg (by omega)]

/-- What holds of short dividends and is not lost by undoing a pass holds of all. -/
theorem modDiv_induction {g : Nat} (hg : 1 ≤ g) {P : Nat → Prop} (short : ∀ d, bitlen d < bitlen g → P d)
    (pass : ∀ d, bitlen g ≤ bitlen d → P (modDivPass d g) → P d) (d : Nat) : P d := by
  by_cases h : bitlen g ≤ bitlen d
  · have hlt := bitlen_modDivPass_lt hg h
    exact pass d h (modDiv_induction hg short pass (modDivPass d g))
  · exact short d (Nat.not_le.1 h)
termination_by bitlen d

/-- The remainder is shorter than the generator (R101). -/
theorem bitlen_modDiv_lt {g : Nat} (hg : 1 ≤ g) (d : Nat) : bitlen (modDiv d g) < bitlen g := by
  induction d using modDiv_induction hg with
  | short d h => rwa [modDiv_of_short h]
  | pass d h ih => rwa [modDiv_pass hg h]

theorem modDiv_lt {g : Nat} (hg : 1 ≤ g) (d : Nat) : modDiv d g < 2 ^ (bitlen g - 1) := by
  have := bitlen_modDiv_lt hg d
  rw [← bitlen_le_iff]
  omega

/-- Settles O23: each pass shortens the dividend, so the passes for its excess length are enough. -/
theorem modDivFollowsItsPasses : Obligations.ModDivFollowsItsPasses := fun d _ hg =>
  ⟨modDiv_of_short, fun h => ⟨modDiv_pass hg h, bitlen_modDivPass_lt hg h⟩, modDiv_lt hg d,
    modDivPasses_eq_modDiv hg (Nat.le_refl _)⟩

/-! ### Linearity -/

theorem modDiv_zero {g : Nat} (hg : 1 ≤ g) : modDiv 0 g = 0 := modDiv_of_short (bitlen_pos hg)

/-- Adding a shifted generator to the dividend does not change the remainder (R102). -/
theorem modDiv_xor_shift {g : Nat} (hg : 1 ≤ g) (k d : Nat) : modDiv (d ^^^ (g <<< k)) g = modDiv d g := by
  have hshift := bitlen_shiftLeft hg k
  obtain h | h | h : bitlen d < bitlen g + k ∨ bitlen d = bitlen g + k ∨ bitlen g + k < bitlen d := by omega
  · have hlen : bitlen (d ^^^ (g <<< k)) = bitlen g + k := by rw [bitlen_xor_of_lt (by omega), hshift]
    rw [modDiv_pass hg (by omega), modDivPass, hlen, Nat.add_sub_cancel_left, Nat.xor_xor_cancel_right]
  · rw [modDiv_pass hg (show bitlen g ≤ bitlen d by omega), modDivPass, h, Nat.add_sub_cancel_left]
  · have hlen : bitlen (d ^^^ (g <<< k)) = bitlen d := by rw [Nat.xor_comm, bitlen_xor_of_lt (by omega)]
    have hpass : modDivPass (d ^^^ (g <<< k)) g = modDivPass d g ^^^ (g <<< k) := by
      rw [modDivPass, modDivPass, hlen, Nat.xor_right_comm]
    have hlt := bitlen_modDivPass_lt hg (show bitlen g ≤ bitlen d by omega)
    rw [modDiv_pass hg (by omega), hpass, modDiv_xor_shift hg k (modDivPass d g), ← modDiv_pass hg (by omega)]
termination_by bitlen d

/-- The remainder is linear in the dividend (R102). -/
theorem modDiv_xor {g : Nat} (hg : 1 ≤ g) (d d' : Nat) : modDiv (d ^^^ d') g = modDiv d g ^^^ modDiv d' g := by
  induction d using modDiv_induction hg with
  | short d h =>
    induction d' using modDiv_induction hg with
    | short d' h' =>
      have hlen := bitlen_xor_le (Nat.le_sub_one_of_lt h) (Nat.le_sub_one_of_lt h')
      rw [modDiv_of_short h, modDiv_of_short h', modDiv_of_short (by omega)]
    | pass d' h' ih =>
      rw [modDiv_pass hg h', ← ih, modDivPass, ← Nat.xor_assoc, modDiv_xor_shift hg]
  | pass d h ih =>
    rw [modDiv_pass hg h, ← ih, modDivPass, Nat.xor_right_comm, modDiv_xor_shift hg]

/-! ### The polynomial product -/

theorem two_mul_xor (x y : Nat) : 2 * (x ^^^ y) = 2 * x ^^^ 2 * y := by
  have h : (x ^^^ y) <<< 1 = x <<< 1 ^^^ y <<< 1 := Nat.shiftLeft_xor_distrib
  simpa only [Nat.shiftLeft_eq, Nat.pow_one, Nat.mul_comm 2] using h

/-- The product's loop over the bits above the lowest is the loop of half the factor, doubled. -/
theorem foldl_polyMul_succ (a b x y : Nat) (is : List Nat) :
    (is.map Nat.succ).foldl (fun acc i => if a.testBit i then acc ^^^ (b <<< i) else acc) (x ^^^ 2 * y) =
      x ^^^ 2 * is.foldl (fun acc i => if (a / 2).testBit i then acc ^^^ (b <<< i) else acc) y := by
  induction is generalizing y with
  | nil => rfl
  | cons i is ih =>
    rw [List.map_cons, List.foldl_cons, List.foldl_cons, Nat.testBit_succ, ← ih]
    congr 1
    split_ifs
    · rw [Nat.shiftLeft_succ, two_mul_xor, Nat.xor_assoc]
    · rfl

@[simp] theorem polyMul_zero_left (g : Nat) : polyMul 0 g = 0 := rfl

/-- The product by the lowest bit of the first factor (R102). -/
theorem polyMul_eq (q g : Nat) : polyMul q g = (if q.testBit 0 then g else 0) ^^^ 2 * polyMul (q / 2) g := by
  obtain rfl | hq := Nat.eq_zero_or_pos q
  · simp
  · have hlen : bitlen q = bitlen (q / 2) + 1 := by
      refine eq_of_forall_lt_iff fun n => ?_
      cases n with
      | zero => exact iff_of_true (bitlen_pos hq) (Nat.succ_pos _)
      | succ n => rw [lt_bitlen_iff, Nat.add_lt_add_iff_right, lt_bitlen_iff, Nat.pow_succ]; omega
    have hloop := foldl_polyMul_succ q g (if q.testBit 0 then g else 0) 0 (List.range (bitlen (q / 2)))
    rw [Nat.mul_zero, Nat.xor_zero] at hloop
    rw [polyMul, hlen, List.range_succ_eq_map, List.foldl_cons, Nat.shiftLeft_zero, Nat.zero_xor, hloop, polyMul]

/-- The product is linear in its first factor (R102). -/
theorem polyMul_xor_left (a b g : Nat) : polyMul (a ^^^ b) g = polyMul a g ^^^ polyMul b g := by
  obtain rfl | ha := Nat.eq_zero_or_pos a
  · simp
  · have ih := polyMul_xor_left (a / 2) (b / 2) g
    have hbit : (if (a ^^^ b).testBit 0 then g else 0) =
        (if a.testBit 0 then g else 0) ^^^ if b.testBit 0 then g else 0 := by
      rw [Nat.testBit_xor]
      cases a.testBit 0 <;> cases b.testBit 0 <;> simp
    rw [polyMul_eq (a ^^^ b), polyMul_eq a, polyMul_eq b, Nat.xor_div_two, ih, two_mul_xor, hbit]
    ac_rfl
termination_by a

theorem polyMul_two_pow (k g : Nat) : polyMul (2 ^ k) g = g <<< k := by
  induction k with
  | zero => rw [polyMul_eq]; simp
  | succ k ih => rw [polyMul_eq, Nat.pow_succ, Nat.mul_div_cancel _ (by decide), ih, Nat.shiftLeft_succ]; simp

/-- Doubling the second factor doubles the product. -/
theorem polyMul_two_mul_right (q g : Nat) : polyMul q (2 * g) = 2 * polyMul q g := by
  obtain rfl | hq := Nat.eq_zero_or_pos q
  · rfl
  · have ih := polyMul_two_mul_right (q / 2) g
    rw [polyMul_eq q, polyMul_eq q g, ih, two_mul_xor]
    split_ifs <;> rfl
termination_by q

/-- A shifted multiple of the generator leaves no remainder. -/
theorem modDiv_polyMul_shift {g : Nat} (hg : 1 ≤ g) (q k : Nat) : modDiv (polyMul q g <<< k) g = 0 := by
  have hgen : ∀ j, modDiv (g <<< j) g = 0 := fun j => by
    rw [← Nat.zero_xor (g <<< j), modDiv_xor_shift hg, modDiv_zero hg]
  obtain rfl | hq := Nat.eq_zero_or_pos q
  · rw [polyMul_zero_left, Nat.zero_shiftLeft, modDiv_zero hg]
  · have ih := modDiv_polyMul_shift hg (q / 2) (k + 1)
    have hdouble : (2 * polyMul (q / 2) g) <<< k = polyMul (q / 2) g <<< (k + 1) := rfl
    rw [polyMul_eq, Nat.shiftLeft_xor_distrib, modDiv_xor hg, hdouble, ih, Nat.xor_zero]
    split_ifs
    · exact hgen k
    · rw [Nat.zero_shiftLeft, modDiv_zero hg]
termination_by q

theorem modDiv_polyMul {g : Nat} (hg : 1 ≤ g) (q : Nat) : modDiv (polyMul q g) g = 0 :=
  modDiv_polyMul_shift hg q 0

/-- Every dividend is a multiple of the generator and its remainder (R102). -/
theorem exists_quotient {g : Nat} (hg : 1 ≤ g) (d : Nat) : ∃ q, d = polyMul q g ^^^ modDiv d g := by
  induction d using modDiv_induction hg with
  | short d h => exact ⟨0, by rw [modDiv_of_short h, polyMul_zero_left, Nat.zero_xor]⟩
  | pass d h ih =>
    obtain ⟨q, hq⟩ := ih
    refine ⟨q ^^^ 2 ^ (bitlen d - bitlen g), ?_⟩
    rw [polyMul_xor_left, polyMul_two_pow, modDiv_pass hg h, Nat.xor_right_comm, ← hq, modDivPass,
      Nat.xor_xor_cancel_right]

/-- Settles O24: the remainder is linear, and multiples of the generator have none. -/
theorem modDivIsThePolynomialRemainder : Obligations.ModDivIsThePolynomialRemainder := fun g hg =>
  ⟨exists_quotient hg, fun q r h => by rw [modDiv_xor hg, modDiv_polyMul hg, Nat.zero_xor, modDiv_of_short h],
    modDiv_xor hg⟩

end Sys2Proof.Machine
end

section
/-! The CRC commands: their results on ready inputs (R103, R104), and the laws that the divider gives them (R106). -/

namespace Sys2Proof.Machine

/-! ### Bit-strings as polynomials -/

/-- A bit-string that starts with '1' has its own length as a polynomial. -/
theorem bitlen_val {g : Bits} (h : g.headD false = true) : bitlen (val g) = g.length := by
  cases g with
  | nil => cases h
  | cons b g =>
    obtain rfl : b = true := h
    have hlt := val_lt g
    have hval : val (true :: g) = 2 ^ g.length + val g := by rw [val_cons, Bool.toNat_true, Nat.one_mul]
    refine Nat.le_antisymm ((bitlen_le_iff _ _).2 (val_lt _)) ((lt_bitlen_iff _ _).2 ?_)
    omega

theorem one_le_val {g : Bits} (h : g.headD false = true) : 1 ≤ val g := by
  refine Nat.pos_of_ne_zero fun hzero => ?_
  have hlen := bitlen_val h
  rw [hzero] at hlen
  obtain rfl := List.length_eq_zero_iff.1 hlen.symm
  cases h

/-- Appending shifts the first string and fills in the second. -/
theorem val_append_eq_xor (s t : Bits) : val (s ++ t) = (val s <<< t.length) ^^^ val t := by
  refine Nat.eq_of_testBit_eq fun j => ?_
  rw [val_append, Nat.mul_comm, Nat.testBit_two_pow_mul_add _ (val_lt t), Nat.testBit_xor, Nat.testBit_shiftLeft]
  split_ifs with h
  · simp [Nat.not_le.2 h]
  · have hzero : (val t).testBit j = false :=
      Nat.testBit_lt_two_pow ((val_lt t).trans_le (Nat.pow_le_pow_right (by decide) (Nat.not_lt.1 h)))
    simp [Nat.not_lt.1 h, hzero]

/-- Flipping character `i` flips bit `len - 1 - i`. -/
theorem val_set_not {c : Bits} {i : Nat} (h : i < c.length) :
    val (c.set i (!c.getD i false)) = val c ^^^ 2 ^ (c.length - 1 - i) := by
  refine Nat.eq_of_testBit_eq fun k => ?_
  rw [testBit_val, List.length_set, Nat.testBit_xor, testBit_val, Nat.testBit_two_pow]
  by_cases hk : k < c.length
  · have hpos : decide (c.length - 1 - i = k) = decide (i = c.length - 1 - k) := decide_eq_decide.2 (by omega)
    rw [if_pos hk, if_pos hk, List.getD_eq_getElem?_getD, List.getElem?_set, hpos]
    split_ifs with hi
    · simp [← hi]
    · simp [hi]
  · rw [if_neg hk, if_neg hk, decide_eq_false (by omega), Bool.xor_self]

/-! ### The generator of ready inputs -/

/-- A ready generator starts with '1' (R100, R189). -/
theorem headD_genBits {s : State} (h : CrcReady s) : (genBits s).headD false = true := by
  obtain ⟨hglen, _, _, _, hfirst⟩ := h
  have hget := getD_bitsOf s.gen s.glen.toNat 0
  rw [if_pos (by omega), bitAt_gen_zero, hfirst] at hget
  rwa [List.headD_eq_head?_getD, List.head?_eq_getElem?, ← List.getD_eq_getElem?_getD]

theorem one_le_val_genBits {s : State} (h : CrcReady s) : 1 ≤ val (genBits s) := one_le_val (headD_genBits h)

/-! ### The results -/

theorem crcEncodeRem_eq (s : State) : crcEncodeRem (dataBits s) (genBits s) =
    bin (modDiv (val (dataBits s) * 2 ^ (s.glen.toNat - 1)) (val (genBits s))) (s.glen.toNat - 1) := by
  rw [crcEncodeRem, length_genBits, Nat.shiftLeft_eq]

/-- A remainder string packed into REM reads back as itself, zero past its end. -/
theorem rem_holds {r : Bits} {n : Nat} (hr : r.length = n) (hn : n < 64) :
    bitsOf (pack r 2) n = r ∧ ∀ k, n ≤ k → k < 64 → bitAt (pack r 2) k = false := by
  subst hr
  exact ⟨bitsOf_pack (by omega), fun k hk hlt => bitAt_pack_tail hk hlt⟩

/-- Settles O21: CRC_ENC assigns DOUT, OLEN, REM and AUX, and its codeword and remainder fit. -/
theorem crcEncodeResult : Obligations.CrcEncodeResult := by
  intro s hready
  obtain ⟨hcode, hfits⟩ := length_crcCodeword hready
  obtain ⟨holen, hbits, htail⟩ := dout_holds (complete (assigned .crcEnc s)) hfits rfl rfl
  have ⟨_, hglen, _⟩ := hready
  obtain ⟨hrem, hremTail⟩ := rem_holds (length_crcEncodeRem (dataBits s) s) (by omega)
  refine ⟨_, exec_of_no_error (reportedError_crc_eq_none.1.2 hready), holen.trans hcode, ?_, ?_, htail, hremTail,
    toNat_lengthWord (by omega), rfl, rfl, sameBesideResults_assigned (by decide) s⟩
  · rw [hbits, crcEncodeRem_eq]
  · rw [← crcEncodeRem_eq]
    exact hrem

/-- Settles O22: CRC_VER assigns REM, AUX and CRC_OK, and its remainder fits. -/
theorem crcVerifyResult : Obligations.CrcVerifyResult := by
  intro s hready
  have ⟨_, hglen, _⟩ := hready
  obtain ⟨hrem, hremTail⟩ :=
    rem_holds (length_bin (crcVerifyRem (dataBits s) (genBits s)) (s.glen.toNat - 1)) (by omega)
  exact ⟨_, exec_of_no_error (reportedError_crc_eq_none.2.2 hready), hrem, hremTail, toNat_lengthWord (by omega), rfl,
    rfl, rfl, rfl, sameBesideResults_assigned (by decide) s⟩

/-- Settles O27: a generator of length 1 leaves a remainder of length 0. -/
theorem lengthOneGeneratorIsIdentity : Obligations.LengthOneGeneratorIsIdentity := by
  intro s hready hone
  have hglen : s.glen.toNat = 1 := by rw [hone]; rfl
  obtain ⟨t, ht, holen, hbits, _, _, hremTail, haux, _⟩ := crcEncodeResult s hready
  obtain ⟨v, hv, _, _, _, _, _, _, hstatus, _⟩ := crcVerifyResult s hready
  rw [hglen] at holen hbits hremTail haux
  refine ⟨⟨t, ht, BitVec.eq_of_toNat_eq holen, ?_, ?_, BitVec.eq_of_toNat_eq haux⟩, v, hv, ?_⟩
  · exact hbits.trans (List.append_nil _)
  · exact buffer_ext fun k hk => (hremTail k (Nat.zero_le k) hk).trans (bitAt_zero k).symm
  · have hlen : bitlen (val (genBits s)) = 1 := by rw [bitlen_val (headD_genBits hready), length_genBits, hglen]
    have hlt := modDiv_lt (one_le_val_genBits hready) (val (dataBits s))
    rw [hlen] at hlt
    rw [hstatus]
    exact decide_eq_true (Nat.lt_one_iff.1 hlt)

/-! ### CRC_VER accepts what CRC_ENC makes -/

/-- The codeword leaves no remainder: the shifted dataword and its remainder string have the same one (R106). -/
theorem crcVerifyRem_codeword (d : Bits) {g : Bits} (h : g.headD false = true) :
    crcVerifyRem (d ++ crcEncodeRem d g) g = 0 := by
  have hg := one_le_val h
  have hlt := modDiv_lt hg (val d <<< (g.length - 1))
  have hself := modDiv_of_short (bitlen_modDiv_lt hg (val d <<< (g.length - 1)))
  rw [bitlen_val h] at hlt
  rw [crcVerifyRem, crcEncodeRem, val_append_eq_xor, length_bin, val_bin hlt, modDiv_xor hg, hself, Nat.xor_self]

/-- CRC_VER on a received word without remainder sets CRC_OK and leaves REM zero (R104). -/
theorem crcVer_valid {u : State} (hready : CrcReady u) (hrem : crcVerifyRem (dataBits u) (genBits u) = 0) :
    ∃ v, exec .crcVer u = .next v ∧ v.status.crcOk = true ∧ v.rem = Vector.replicate 2 0 := by
  refine ⟨_, exec_of_no_error (reportedError_crc_eq_none.2.2 hready), beq_iff_eq.2 hrem, ?_⟩
  calc (complete (assigned .crcVer u)).rem
    _ = pack (bin (crcVerifyRem (dataBits u) (genBits u)) (u.glen.toNat - 1)) 2 := rfl
    _ = Vector.replicate 2 0 := by rw [hrem, pack_bin_zero]

/-- Settles O25: the codeword leaves no remainder, and the received word of the block is the codeword. -/
theorem verifyAcceptsEncodedWord : Obligations.VerifyAcceptsEncodedWord := by
  refine ⟨fun d g => crcVerifyRem_codeword d, fun s t u hready hexec hfits hglen hgen hdlen hload => ?_⟩
  obtain ⟨t', ht', holen, hbits, _⟩ := crcEncodeResult s hready
  obtain rfl : t' = t := Host.Outcome.next.inj (ht'.symm.trans hexec)
  rw [← crcEncodeRem_eq] at hbits
  have hdata : dataBits u = dataBits s ++ crcEncodeRem (dataBits s) (genBits s) :=
    dataBits_eq (by rw [hdlen]) (hload.trans hbits)
  have hgenBits : genBits u = genBits s := by rw [genBits, hgen, hglen, genBits]
  have hready' : CrcReady u := by
    obtain ⟨hg1, hg2, hd1, _, hfirst⟩ := hready
    exact ⟨by rwa [hglen], by rwa [hglen], by rw [hdlen]; omega, by rwa [hdlen], by simpa only [hgen] using hfirst⟩
  refine crcVer_valid hready' ?_
  rw [hdata, hgenBits]
  exact crcVerifyRem_codeword _ (headD_genBits hready)

/-! ### Single-bit flips -/

/-- The generator divides exactly its multiples. -/
theorem modDiv_eq_zero_iff {g : Nat} (hg : 1 ≤ g) (d : Nat) : modDiv d g = 0 ↔ ∃ q, d = polyMul q g := by
  constructor
  · intro h
    obtain ⟨q, hq⟩ := exists_quotient hg d
    exact ⟨q, by rw [hq, h, Nat.xor_zero]⟩
  · rintro ⟨q, rfl⟩
    exact modDiv_polyMul hg q

/-- A factor of a power of x is a power of x: an even product has an even factor, which can be halved (G2). -/
theorem eq_two_pow_of_polyMul {i q g : Nat} (hg : 1 ≤ g) (h : polyMul q g = 2 ^ i) : ∃ j, g = 2 ^ j := by
  induction i generalizing q g with
  | zero =>
    have hdvd : modDiv 1 g = 0 := (modDiv_eq_zero_iff hg 1).2 ⟨q, h.symm⟩
    have hshort : ¬ bitlen 1 < bitlen g := fun hlt => by
      rw [modDiv_of_short hlt] at hdvd
      cases hdvd
    have hlen : g < 2 ^ 1 := (bitlen_le_iff g 1).1 (Nat.not_lt.1 hshort)
    exact ⟨0, by omega⟩
  | succ i ih =>
    have hrec := polyMul_eq q g
    by_cases hq : q.testBit 0 = true
    · have heven : g.testBit 0 = false := by
        have hbit := congrArg (Nat.testBit · 0) (hrec.symm.trans h)
        simpa [hq, Nat.pow_succ] using hbit
      obtain ⟨g', rfl⟩ : ∃ g', g = 2 * g' := ⟨g / 2, by simp at heven; omega⟩
      rw [polyMul_two_mul_right, Nat.pow_succ, Nat.mul_comm] at h
      obtain ⟨j, rfl⟩ := ih (by omega) (Nat.eq_of_mul_eq_mul_right (by decide) h)
      exact ⟨j + 1, by rw [Nat.pow_succ, Nat.mul_comm]⟩
    · rw [if_neg hq, Nat.zero_xor, h, Nat.pow_succ, Nat.mul_comm] at hrec
      exact ih hg (Nat.eq_of_mul_eq_mul_left (by decide) hrec.symm)

/-- A generator divides some power of x exactly when it is one itself (R106, G2). -/
theorem modDiv_two_pow_ne_zero_iff {g : Nat} (hg : 1 ≤ g) :
    (∀ i, modDiv (2 ^ i) g ≠ 0) ↔ ∀ j, g ≠ 2 ^ j := by
  constructor
  · rintro h j rfl
    exact h j ((modDiv_eq_zero_iff hg _).2 ⟨2 ^ 0, by rw [polyMul_two_pow, Nat.shiftLeft_zero]⟩)
  · intro h i hzero
    obtain ⟨q, hq⟩ := (modDiv_eq_zero_iff hg _).1 hzero
    obtain ⟨j, hj⟩ := eq_two_pow_of_polyMul hg hq.symm
    exact h j hj

/-- A generator `2^j` detects just the flips below bit `j` (R106). -/
theorem modDiv_two_pow_two_pow_ne_zero_iff (k j : Nat) : modDiv (2 ^ k) (2 ^ j) ≠ 0 ↔ k < j := by
  have hlen : ∀ n, bitlen (2 ^ n) = n + 1 := fun n => by
    rw [← Nat.one_shiftLeft, bitlen_shiftLeft (Nat.le_refl 1), Nat.add_comm]
    rfl
  by_cases h : k < j
  · refine iff_of_true ?_ h
    rw [modDiv_of_short (by rw [hlen, hlen]; omega)]
    exact (Nat.two_pow_pos k).ne'
  · refine iff_of_false (not_not.2 ?_) h
    refine (modDiv_eq_zero_iff (Nat.two_pow_pos j) _).2 ⟨2 ^ (k - j), ?_⟩
    rw [polyMul_two_pow, Nat.shiftLeft_eq, ← Nat.pow_add]
    congr 1
    omega

/-- A flip of a codeword leaves the remainder of the flipped bit (R106). -/
theorem modDiv_flip {c g : Nat} (hg : 1 ≤ g) (i : Nat) (h : modDiv c g = 0) :
    modDiv (c ^^^ 2 ^ i) g = modDiv (2 ^ i) g := by
  rw [modDiv_xor hg, h, Nat.zero_xor]

/-- CRC_VER on a received word that verified and then had character `i` flipped: CRC_OK tells whether the generator
divides the flipped bit. -/
theorem crcVer_flipped {s t u : State} {i : Nat} (hready : CrcReady s) (hexec : exec .crcVer s = .next t)
    (hok : t.status.crcOk = true) (hdlen : u.dlen = s.dlen) (hglen : u.glen = s.glen) (hgen : u.gen = s.gen)
    (hi : i < s.dlen.toNat) (hflip : dataBits u = (dataBits s).set i (!(dataBits s).getD i false)) :
    ∃ v, exec .crcVer u = .next v ∧
      (v.status.crcOk = false ↔ modDiv (2 ^ (s.dlen.toNat - 1 - i)) (val (genBits s)) ≠ 0) := by
  obtain ⟨t', ht', _, _, _, _, _, _, hstatus, _⟩ := crcVerifyResult s hready
  obtain rfl : t' = t := Host.Outcome.next.inj (ht'.symm.trans hexec)
  rw [hstatus] at hok
  have hready' : CrcReady u := by
    simpa only [CrcReady, hdlen, hglen, hgen] using hready
  obtain ⟨v, hv, _, _, _, _, _, _, hstatus', _⟩ := crcVerifyResult u hready'
  have hgenBits : genBits u = genBits s := by rw [genBits, hgen, hglen, genBits]
  have hval : val (dataBits u) = val (dataBits s) ^^^ 2 ^ (s.dlen.toNat - 1 - i) := by
    rw [hflip, val_set_not (by rwa [length_dataBits]), length_dataBits]
  refine ⟨v, hv, ?_⟩
  rw [hstatus', hgenBits, hval, modDiv_flip (one_le_val_genBits hready) _ (of_decide_eq_true hok),
    decide_eq_false_iff_not]

/-- Settles O26: by linearity only the flipped bit counts, and a generator divides a power of x only if it is one. -/
theorem singleBitFlipDetection : Obligations.SingleBitFlipDetection := by
  refine ⟨fun c g i hg h => modDiv_flip hg i h, fun g hg => modDiv_two_pow_ne_zero_iff hg, ?_⟩
  intro s t u i hready hexec hok hdlen hglen hgen hi hflip
  obtain ⟨v, hv, hiff⟩ := crcVer_flipped hready hexec hok hdlen hglen hgen hi hflip
  refine ⟨v, hv, hiff, fun hmany => hiff.2 ?_, fun j hj => ?_⟩
  · exact (modDiv_two_pow_ne_zero_iff (one_le_val_genBits hready)).2 hmany _
  · rw [hiff, hj, modDiv_two_pow_two_pow_ne_zero_iff]

end Sys2Proof.Machine
end

section
/-! The Hamming codeword in closed form (R135): the data positions keep the layout, and each parity bit evens out its own
group and no other. -/

namespace Sys2Proof.Machine

/-! ### XOR over positions -/

/-- The XOR of a bit over a list of positions (R132). -/
def xorOver (is : List Nat) (f : Nat → Bool) : Bool := is.foldl (fun acc i => acc ^^ f i) false

theorem xorOver_congr {is : List Nat} {f g : Nat → Bool} (h : ∀ i ∈ is, f i = g i) : xorOver is f = xorOver is g :=
  List.foldl_ext _ _ _ fun acc i hi => by rw [h i hi]

theorem xorOver_perm {is js : List Nat} (h : is.Perm js) (f : Nat → Bool) : xorOver is f = xorOver js f :=
  h.foldl_eq' (fun _ _ _ _ _ => Bool.xor_right_comm _ _ _) false

theorem xorOver_cons (i : Nat) (is : List Nat) (f : Nat → Bool) : xorOver (i :: is) f = (f i ^^ xorOver is f) := by
  have hmove : ∀ acc : Bool, is.foldl (fun acc i => acc ^^ f i) acc = (acc ^^ xorOver is f) := by
    unfold xorOver
    induction is with
    | nil => simp
    | cons j is ih =>
      intro acc
      rw [List.foldl_cons, List.foldl_cons, ih, ih (false ^^ f j), Bool.false_xor, Bool.xor_assoc]
  rw [xorOver, List.foldl_cons, hmove, Bool.false_xor]

/-- One position taken out of the XOR. -/
theorem xorOver_eq_of_mem {is : List Nat} (hnodup : is.Nodup) {p : Nat} (hp : p ∈ is) (f : Nat → Bool) :
    xorOver is f = (f p ^^ xorOver (is.filter (fun i => i ≠ p)) f) := by
  have herase : is.erase p = is.filter (fun i => i ≠ p) := by
    rw [hnodup.erase_eq_filter]
    exact List.filter_congr fun i _ => Bool.eq_iff_iff.2 (by simp)
  rw [xorOver_perm (List.perm_cons_erase hp), xorOver_cons, herase]

/-! ### The position buffer -/

/-- Position `i` of the buffer P, counted from 1 (R10). -/
def bufferBit (buf : Bits) (i : Nat) : Bool := buf.getD (i - 1) false

/-- The positions of the parity group of `2 ^ k` (R132). -/
def parityGroup (n k : Nat) : List Nat := (List.range' 1 n).filter (fun i => i &&& 2 ^ k ≠ 0)

theorem mem_parityGroup {n k i : Nat} : i ∈ parityGroup n k ↔ (1 ≤ i ∧ i ≤ n) ∧ i &&& 2 ^ k ≠ 0 := by
  rw [parityGroup, List.mem_filter, List.mem_range'_1, decide_eq_true_eq]
  omega

theorem zipIdx_eq_map (buf : Bits) :
    buf.zipIdx 1 = (List.range' 1 buf.length).map fun i => (bufferBit buf i, i) := by
  refine List.ext_getElem (by simp) fun k hk _ => ?_
  have hk' : k < buf.length := by simpa using hk
  simp [bufferBit, List.getD_eq_getElem?_getD, hk']

/-- `Parity(P, 2 ^ k, n)` is the XOR over the group of `2 ^ k`, its own position left out (R132). -/
theorem parity_two_pow (buf : Bits) (k : Nat) :
    parity buf (2 ^ k) = xorOver ((parityGroup buf.length k).filter (fun i => i ≠ 2 ^ k)) (bufferBit buf) := by
  rw [parity, zipIdx_eq_map, List.foldl_map, xorOver, parityGroup, List.filter_filter, List.foldl_filter]
  simp

/-- Setting a parity bit changes its own position only (R134). -/
theorem bufferBit_setParity (buf : Bits) (j : Nat) {i : Nat} (hi : 1 ≤ i) (hle : i ≤ buf.length) :
    bufferBit (setParity buf j) i = if i = 2 ^ j then parity buf (2 ^ j) else bufferBit buf i := by
  have hpos := Nat.two_pow_pos j
  by_cases h : i = 2 ^ j
  · rw [if_pos h, h, bufferBit, setParity, List.getD_eq_getElem?_getD, List.getElem?_set_self (by omega),
      Option.getD_some]
  · rw [if_neg h, bufferBit, bufferBit, setParity, List.getD_eq_getElem?_getD, List.getD_eq_getElem?_getD,
      List.getElem?_set_ne (by omega)]

/-- Every parity group of the buffer whose parity bit is set is even. -/
theorem xorOver_group_setParity_self {buf : Bits} {k : Nat} (hk : 2 ^ k ≤ buf.length) :
    xorOver (parityGroup buf.length k) (bufferBit (setParity buf k)) = false := by
  have hmem : 2 ^ k ∈ parityGroup buf.length k :=
    mem_parityGroup.2 ⟨⟨Nat.two_pow_pos k, hk⟩, (two_pow_and_ne_zero_iff k k).2 rfl⟩
  have hnodup : (parityGroup buf.length k).Nodup := List.Nodup.filter _ List.nodup_range'
  have hothers : xorOver ((parityGroup buf.length k).filter (fun i => i ≠ 2 ^ k)) (bufferBit (setParity buf k)) =
      parity buf (2 ^ k) := by
    rw [parity_two_pow]
    refine xorOver_congr fun i hi => ?_
    rw [List.mem_filter, decide_eq_true_eq] at hi
    obtain ⟨hi, hne⟩ := hi
    obtain ⟨⟨hone, hle⟩, _⟩ := mem_parityGroup.1 hi
    rw [bufferBit_setParity buf k hone hle, if_neg hne]
  rw [xorOver_eq_of_mem hnodup hmem, hothers, bufferBit_setParity buf k (Nat.two_pow_pos k) hk, if_pos rfl,
    Bool.xor_self]

/-- A parity bit lies in no group but its own. -/
theorem xorOver_group_setParity_other (buf : Bits) {j k : Nat} (h : j ≠ k) :
    xorOver (parityGroup buf.length k) (bufferBit (setParity buf j)) =
      xorOver (parityGroup buf.length k) (bufferBit buf) := by
  refine xorOver_congr fun i hi => ?_
  obtain ⟨⟨hone, hle⟩, hgroup⟩ := mem_parityGroup.1 hi
  have hne : i ≠ 2 ^ j := by
    rintro rfl
    exact h ((two_pow_and_ne_zero_iff j k).1 hgroup)
  rw [bufferBit_setParity buf j hone hle, if_neg hne]

/-- After the parity bits up to `r` are set, their groups are even. -/
theorem xorOver_group_foldl_setParity (buf : Bits) {r : Nat} (hr : ∀ j < r, 2 ^ j ≤ buf.length) {k : Nat} (hk : k < r) :
    xorOver (parityGroup buf.length k) (bufferBit ((List.range r).foldl setParity buf)) = false := by
  induction r with
  | zero => cases hk
  | succ r ih =>
    have hlen := length_foldl_setParity (List.range r) buf
    rw [List.range_succ, List.foldl_append, List.foldl_cons, List.foldl_nil, ← hlen]
    obtain hlt | rfl := Nat.lt_succ_iff_lt_or_eq.1 hk
    · rw [xorOver_group_setParity_other _ (Nat.ne_of_gt hlt), hlen]
      exact ih (fun j hj => hr j (by omega)) hlt
    · exact xorOver_group_setParity_self (by rw [hlen]; exact hr k (by omega))

/-- The parity bits leave the positions that are no power of two. -/
theorem bufferBit_foldl_setParity {i : Nat} (hpow : isPow2 i = false) (hi : 1 ≤ i) (js : List Nat) {buf : Bits}
    (hle : i ≤ buf.length) : bufferBit (js.foldl setParity buf) i = bufferBit buf i := by
  induction js generalizing buf with
  | nil => rfl
  | cons j js ih =>
    have hne : i ≠ 2 ^ j := by
      rintro rfl
      rw [(isPow2_iff _).2 ⟨j, rfl⟩] at hpow
      cases hpow
    rw [List.foldl_cons, ih (by rwa [length_setParity]), bufferBit_setParity buf j hi hle, if_neg hne]

/-! ### The layout -/

/-- The layout puts the bits in order on the positions that are no power of two (R134). -/
theorem map_layoutFrom (count pos : Nat) {e : Bits}
    (he : ((List.range' pos count).filter (fun i => !isPow2 i)).length = e.length) :
    ((List.range' pos count).filter (fun i => !isPow2 i)).map (fun i => (layoutFrom count pos e).getD (i - pos) false) =
      e := by
  induction count generalizing pos e with
  | zero => exact (List.length_eq_zero_iff.1 he.symm).symm
  | succ count ih =>
    have hshift : ∀ (b : Bool) (tail : Bits),
        ((List.range' (pos + 1) count).filter (fun i => !isPow2 i)).map (fun i => (b :: tail).getD (i - pos) false) =
          ((List.range' (pos + 1) count).filter (fun i => !isPow2 i)).map (fun i => tail.getD (i - (pos + 1)) false) := by
      refine fun b tail => List.map_congr_left fun i hi => ?_
      have hle := (List.mem_range'_1.1 (List.mem_filter.1 hi).1).1
      rw [show i - pos = i - (pos + 1) + 1 by omega, List.getD_cons_succ]
    rw [List.range'_succ] at he ⊢
    rw [layoutFrom]
    cases hpow : isPow2 pos with
    | true =>
      rw [List.filter_cons_of_neg (by simp [hpow])] at he ⊢
      rw [if_pos rfl, hshift, ih (pos + 1) he]
    | false =>
      rw [List.filter_cons_of_pos (by simp [hpow])] at he ⊢
      cases e with
      | nil => cases he
      | cons b e =>
        rw [if_neg (by simp), List.map_cons, hshift, Nat.sub_self, List.getD_cons_zero, List.headD_cons, List.tail_cons,
          ih (pos + 1) (Nat.succ.inj he)]

/-- The data positions of the buffer hold the reversed dataword (R134, R135). -/
theorem map_bufferBit_hammingBuffer (d : Bits) :
    ((List.range' 1 (d.length + parityCount d.length)).filter (fun i => !isPow2 i)).map (bufferBit (hammingBuffer d)) =
      d.reverse := by
  have hcount : ((List.range' 1 (d.length + parityCount d.length)).filter (fun i => !isPow2 i)).length =
      d.reverse.length := by
    rw [length_dataPositions (fun j hj => two_pow_le_lastPosition hj) (covers_parityCount d.length), List.length_reverse,
      Nat.add_sub_cancel]
  refine (List.map_congr_left fun i hi => ?_).trans (map_layoutFrom _ 1 hcount)
  obtain ⟨hrange, hpow⟩ := List.mem_filter.1 hi
  rw [List.mem_range'_1] at hrange
  exact bufferBit_foldl_setParity (by simpa using hpow) (by omega) _ (by rw [length_layoutFrom]; omega)

/-! ### The codeword -/

/-- The codeword is the buffer from its last position to its first (R134). -/
theorem getD_hammingCode (d : Bits) {t : Nat} (ht : t < d.length + parityCount d.length) :
    (hammingCode d).getD t false = bufferBit (hammingBuffer d) (d.length + parityCount d.length - t) := by
  rw [hammingCode, bufferBit, List.getD_eq_getElem?_getD, List.getD_eq_getElem?_getD,
    List.getElem?_reverse (by rwa [length_hammingBuffer]), length_hammingBuffer]
  congr 2
  omega

theorem hammingPosition_hammingCode (d : Bits) {i : Nat} (hi : 1 ≤ i) (hle : i ≤ d.length + parityCount d.length) :
    hammingPosition (hammingCode d) i = bufferBit (hammingBuffer d) i := by
  rw [hammingPosition, length_hammingCode, getD_hammingCode d (by omega)]
  congr 1
  omega

/-- Read from the last position down, the data positions hold the dataword (R135). -/
theorem dataCharacters_hammingCode (d : Bits) :
    ((List.range (d.length + parityCount d.length)).filter
      (fun t => !isPow2 (d.length + parityCount d.length - t))).map (fun t => (hammingCode d).getD t false) = d := by
  have hdown : (List.range (d.length + parityCount d.length)).map (fun t => d.length + parityCount d.length - t) =
      (List.range' 1 (d.length + parityCount d.length)).reverse := by
    rw [List.reverse_range']
    exact List.map_congr_left fun t _ => by omega
  calc _ = ((List.range (d.length + parityCount d.length)).filter
          (fun t => !isPow2 (d.length + parityCount d.length - t))).map
          (fun t => bufferBit (hammingBuffer d) (d.length + parityCount d.length - t)) :=
        List.map_congr_left fun t ht => getD_hammingCode d (List.mem_range.1 (List.mem_filter.1 ht).1)
    _ = (((List.range (d.length + parityCount d.length)).map (fun t => d.length + parityCount d.length - t)).filter
          (fun i => !isPow2 i)).map (bufferBit (hammingBuffer d)) := by
        rw [List.filter_map, List.map_map]
        rfl
    _ = d := by
        rw [hdown, List.filter_reverse, List.map_reverse, map_bufferBit_hammingBuffer, List.reverse_reverse]

/-- Settles O32: the data positions keep the layout, and each parity bit evens out its group. -/
theorem hammingCodewordClosedForm : Obligations.HammingCodewordClosedForm := by
  intro d
  rw [length_hammingCode]
  refine ⟨rfl, dataCharacters_hammingCode d, fun k hk => ?_⟩
  have hlen : (layoutFrom (d.length + parityCount d.length) 1 d.reverse).length = d.length + parityCount d.length :=
    length_layoutFrom _ _ _
  have heven := xorOver_group_foldl_setParity (layoutFrom (d.length + parityCount d.length) 1 d.reverse)
    (fun j hj => by rw [hlen]; exact two_pow_le_lastPosition hj) hk
  rw [hlen] at heven
  calc xorOver (parityGroup (d.length + parityCount d.length) k) (hammingPosition (hammingCode d))
    _ = xorOver (parityGroup (d.length + parityCount d.length) k) (bufferBit (hammingBuffer d)) := by
      refine xorOver_congr fun i hi => ?_
      obtain ⟨⟨hone, hle⟩, _⟩ := mem_parityGroup.1 hi
      exact hammingPosition_hammingCode d hone hle
    _ = false := heven

end Sys2Proof.Machine
end

section
/-! The host's programs on the block (R81 to R84): one access at a time, then the lines that write a buffer word by word,
then ISSUE and WAIT. -/

namespace Sys2Proof.Machine

/-! ### One access -/

theorem drain_succ {s : State} {e : HostEvent} {rest : List HostEvent} (hag : s.agenda = e :: rest) (n : Nat) :
    drain (n + 1) s = drain n (stepped s) := by
  simp [drain, hag, step_eq]

theorem drain_nothing {s : State} (hag : s.agenda = []) (n : Nat) : drain n s = s := by
  cases n <;> simp [drain, hag]

/-- An access before which the engine does not move is performed at once. -/
theorem submit_waiting {s : State} (h : s.status.busy = false ∨ s.wait ≠ 0) (a : Access) :
    submit a s = performAccess a (takeEvent s []) := by
  have hag : { s with agenda := [.access a] }.agenda = .access a :: [] := rfl
  have ht : engineTurn { s with agenda := [.access a] } = false := by
    obtain hb | hw := h
    · exact engineTurn_idle hb
    · exact engineTurn_waiting hw hag
  rw [submit, drain_succ hag, stepped_hostEvent ht hag, performEvent, drain_nothing (performAccess_agenda a _)]
  rfl

/-- With the latency over the command completes first, and the access is performed on the completed block. -/
theorem submit_completing {s : State} (hb : s.status.busy = true) (hw : s.wait = 0) (a : Access) :
    ∃ u, blockOf u = blockOf (executed s.lcmd s) ∧ submit a s = performAccess a u := by
  have hag : { s with agenda := [.access a] }.agenda = .access a :: [] := rfl
  have ht : engineTurn { s with agenda := [.access a] } = true := by simp [engineTurn, hb, hw]
  have hidle := engineTurn_idle (executed_done_busy s.lcmd { s with agenda := [.access a] }).2
  refine ⟨takeEvent (executed s.lcmd { s with agenda := [.access a] }) [], ?_, ?_⟩
  · calc blockOf (executed s.lcmd { s with agenda := [.access a] })
      _ = blockOf (executed s.lcmd s) := by rw [← executed_blockOf, ← executed_blockOf]; rfl
  · have hag' := (executed_agenda s.lcmd { s with agenda := [.access a] }).trans hag
    rw [submit, drain_succ hag, stepped_engine ht, drain_succ hag', stepped_hostEvent hidle hag']
    rfl

/-! ### One line -/

/-- A primitive write on an idle block is the write at its offset. -/
theorem blockOf_runPrim_wr {h : HostRun} (hb : h.block.status.busy = false) {r : HostReg}
    (hlt : hostRegOffset r < 0x1000) (ha : hostRegOffset r % 4 = 0) (v : HostValue) :
    blockOf (runPrim (.wr r v) h).block = blockOf (writeOffset h.block (hostRegOffset r) (hostValue h v)) := by
  simp only [runPrim, submit_waiting (.inl hb), performAccess_memWrite _ hlt ha]
  rw [blockOf_writeOffset h.block]
  exact blockOf_writeOffset (takeEvent h.block []) _ _

/-- A primitive read that is answered with a word keeps it in its temporary and in the log (R81, R83). -/
theorem runPrim_rd {h : HostRun} (r : HostReg) {v : Word}
    (hresponse : (submit (memRead (Config.base + hostRegOffset r)) h.block).response = some (.data v)) (t : Nat) :
    runPrim (.rd r t) h =
      { h with
        block := submit (memRead (Config.base + hostRegOffset r)) h.block
        temps := (t, v) :: h.temps
        log := h.log ++ [⟨false, hostRegOffset r, v⟩] } := by
  simp only [runPrim, readData, hresponse]

/-- The newest value of a temporary counts. -/
theorem tempValue_cons_self {h : HostRun} {t : Nat} {v : Word} (temps : List (Nat × Word))
    (htemps : h.temps = (t, v) :: temps) : tempValue h t = v := by
  simp [tempValue, htemps]

/-- A primitive read before which the engine does not move keeps the word at its offset and changes the host's fields
alone. -/
theorem runPrim_rd_waiting {h : HostRun} (hw : h.block.status.busy = false ∨ h.block.wait ≠ 0) (r : HostReg)
    (hlt : hostRegOffset r < 0x1000) (ha : hostRegOffset r % 4 = 0) (t : Nat) :
    runPrim (.rd r t) h =
      { h with
        block := { takeEvent h.block [] with response := some (.data (readOffset h.block (hostRegOffset r))) }
        temps := (t, readOffset h.block (hostRegOffset r)) :: h.temps
        log := h.log ++ [⟨false, hostRegOffset r, readOffset h.block (hostRegOffset r)⟩] } := by
  have hsubmit : submit (memRead (Config.base + hostRegOffset r)) h.block =
      { takeEvent h.block [] with response := some (.data (readOffset h.block (hostRegOffset r))) } := by
    rw [submit_waiting hw, performAccess_memRead _ hlt ha, readOffset_takeEvent]
  rw [runPrim_rd r (by rw [hsubmit]), hsubmit]

theorem runPrims_append (ps qs : List HostPrim) (h : HostRun) :
    runPrims (ps ++ qs) h = runPrims qs (runPrims ps h) := List.foldl_append

theorem runPrims_pair (p q : HostPrim) (h : HostRun) : runPrims [p, q] h = runPrim q (runPrim p h) := rfl

/-! ### The words of a buffer -/

/-- A buffer with its first `n` words replaced. -/
def replaceWords {size : Nat} (n : Nat) (w : Nat → Word) (v : Vector Word size) : Vector Word size :=
  Vector.ofFn fun i => if i.val < n then w i.val else v[i]

theorem getElem_replaceWords {size : Nat} (n : Nat) (w : Nat → Word) (v : Vector Word size) {i : Nat} (hi : i < size) :
    (replaceWords n w v)[i] = if i < n then w i else v[i] := Vector.getElem_ofFn hi

/-- The next word replaced after the first `n`. -/
theorem set_replaceWords {size n : Nat} (hn : n < size) (w : Nat → Word) (v : Vector Word size) :
    (replaceWords n w v).set n (w n) = replaceWords (n + 1) w v := by
  refine Vector.ext fun i hi => ?_
  rw [Vector.getElem_set, getElem_replaceWords, getElem_replaceWords]
  obtain h | h | h : n = i ∨ i < n ∨ n < i := by omega
  · rw [if_pos h, if_pos (by omega), h]
  · rw [if_neg (by omega), if_pos h, if_pos (by omega)]
  · rw [if_neg (by omega), if_neg (by omega), if_neg (by omega)]

/-- The block with the first `n` words of a read-write buffer replaced; the other buffers are read-only (R57). -/
def withWords (b : HostBuffer) (n : Nat) (w : Nat → Word) (s : State) : State :=
  match b with
  | .din => { s with din := replaceWords n w s.din }
  | .gen => { s with gen := replaceWords n w s.gen }
  | .rem => s
  | .dout => s

theorem withWords_zero (b : HostBuffer) (w : Nat → Word) (s : State) : withWords b 0 w s = s := by
  cases b <;> simp [withWords, replaceWords]

theorem withWords_busy (b : HostBuffer) (n : Nat) (w : Nat → Word) (s : State) :
    (withWords b n w s).status.busy = s.status.busy := by
  cases b <;> rfl

/-- Every word of a buffer stands at an aligned offset of the window (R20). -/
theorem bufferOffset_bounds {b : HostBuffer} {i : Nat} (hi : i < bufferSize b) :
    bufferOffset b i < 0x1000 ∧ bufferOffset b i % 4 = 0 := by
  cases b <;> simp only [bufferSize] at hi <;> simp only [bufferOffset] <;> omega

theorem hostRegOffset_bufferWord (b : HostBuffer) (i : Nat) : hostRegOffset (bufferWord b i) = bufferOffset b i := by
  cases b <;> rfl

/-- Word `i` of a buffer as a register of the window (R20). -/
def bufferReg : (b : HostBuffer) → (i : Nat) → i < bufferSize b → WinReg
  | .din, i, hi => .din ⟨i, hi⟩
  | .gen, i, hi => .gen ⟨i, hi⟩
  | .rem, i, hi => .rem ⟨i, hi⟩
  | .dout, i, hi => .dout ⟨i, hi⟩

theorem offsetOf_bufferReg {b : HostBuffer} {i : Nat} (hi : i < bufferSize b) :
    offsetOf (bufferReg b i hi) = bufferOffset b i := by
  cases b <;> rfl

/-- A write of the next word of a buffer (R57). -/
theorem writeReg_withWords (s : State) {b : HostBuffer} {n : Nat} (hn : n < bufferSize b) (w : Nat → Word) :
    writeReg (withWords b n w s) (w n) (bufferReg b n hn) = withWords b (n + 1) w s := by
  cases b with
  | din => simp only [withWords, bufferReg, writeReg, set_replaceWords]
  | gen => simp only [withWords, bufferReg, writeReg, set_replaceWords]
  | rem => rfl
  | dout => rfl

/-- Word `n` of any buffer is not among the first `n` words replaced, in its own buffer or in another. -/
theorem readReg_withWords (s : State) (dst : HostBuffer) {src : HostBuffer} {n : Nat} (hn : n < bufferSize src)
    (w : Nat → Word) : readReg (withWords dst n w s) (bufferReg src n hn) = readReg s (bufferReg src n hn) := by
  cases dst with
  | din => cases src <;> simp [withWords, bufferReg, readReg, getElem_replaceWords]
  | gen => cases src <;> simp [withWords, bufferReg, readReg, getElem_replaceWords]
  | rem => rfl
  | dout => rfl

theorem writeOffset_withWords {s : State} (hb : s.status.busy = false) {b : HostBuffer} {n : Nat}
    (hn : n < bufferSize b) (w : Nat → Word) :
    writeOffset (withWords b n w s) (bufferOffset b n) (w n) = withWords b (n + 1) w s := by
  rw [← offsetOf_bufferReg hn, writeOffset_offsetOf ((withWords_busy b n w s).trans hb), writeReg_withWords]

theorem readOffset_withWords (s : State) (dst : HostBuffer) {src : HostBuffer} {n : Nat} (hn : n < bufferSize src)
    (w : Nat → Word) : readOffset (withWords dst n w s) (bufferOffset src n) = readOffset s (bufferOffset src n) := by
  rw [← offsetOf_bufferReg hn, readOffset_offsetOf, readOffset_offsetOf, readReg_withWords]

/-! ### LOADBITS and COPY -/

/-- A block that is `s` but for the host's fields is idle when `s` is. -/
theorem busy_of_blockOf_eq {s t : State} (h : blockOf t = blockOf s) : t.status.busy = s.status.busy :=
  show (blockOf t).status.busy = (blockOf s).status.busy by rw [h]

/-- A write of the next word of a buffer, on a block that is idle with the words before it replaced. -/
theorem blockOf_runPrim_wr_next {g : HostRun} {s : State} (hb : s.status.busy = false) {b : HostBuffer} {n : Nat}
    (hn : n < bufferSize b) {w : Nat → Word} (hblock : blockOf g.block = blockOf (withWords b n w s)) {v : HostValue}
    (hv : hostValue g v = w n) :
    blockOf (runPrim (.wr (bufferWord b n) v) g).block = blockOf (withWords b (n + 1) w s) := by
  obtain ⟨hlt, ha⟩ := bufferOffset_bounds hn
  rw [← hostRegOffset_bufferWord] at hlt ha
  have hidle : g.block.status.busy = false := (busy_of_blockOf_eq hblock).trans ((withWords_busy b n w s).trans hb)
  rw [blockOf_runPrim_wr hidle hlt ha, hv, blockOf_writeOffset, hblock, ← blockOf_writeOffset,
    hostRegOffset_bufferWord, writeOffset_withWords hb hn]

/-- The writes of `LOADBITS` replace the words they reach (R82). -/
theorem blockOf_storeWords {h : HostRun} (hb : h.block.status.busy = false) (b : HostBuffer) (w : Nat → Word) {n : Nat}
    (hn : n ≤ bufferSize b) :
    blockOf (runPrims ((List.range n).map fun i => .wr (bufferWord b i) (.lit (w i))) h).block =
      blockOf (withWords b n w h.block) := by
  induction n with
  | zero => rw [withWords_zero]; rfl
  | succ n ih =>
    rw [List.range_succ, List.map_append, runPrims_append]
    exact blockOf_runPrim_wr_next hb hn (ih (by omega)) rfl

/-- The reads and writes of `COPY` replace the words they reach by those of the source as it was before (R82). -/
theorem blockOf_copyWords {h : HostRun} (hb : h.block.status.busy = false) (src dst : HostBuffer) (t : Nat) {n : Nat}
    (hsrc : n ≤ bufferSize src) (hdst : n ≤ bufferSize dst) :
    blockOf (runPrims ((List.range n).flatMap fun i =>
        [.rd (bufferWord src i) (t + i), .wr (bufferWord dst i) (.temp (t + i))]) h).block =
      blockOf (withWords dst n (fun i => readOffset h.block (bufferOffset src i)) h.block) := by
  induction n with
  | zero => rw [withWords_zero]; rfl
  | succ n ih =>
    rw [List.range_succ, List.flatMap_append, runPrims_append, List.flatMap_singleton, runPrims_pair]
    have hblock := ih (by omega) (by omega)
    generalize runPrims _ h = g at hblock ⊢
    obtain ⟨hlt, ha⟩ := bufferOffset_bounds (show n < bufferSize src by omega)
    have hidle : g.block.status.busy = false := (busy_of_blockOf_eq hblock).trans ((withWords_busy _ _ _ _).trans hb)
    have hword : readOffset g.block (bufferOffset src n) = readOffset h.block (bufferOffset src n) := by
      rw [← readOffset_blockOf, hblock, readOffset_blockOf, readOffset_withWords _ _ (by omega)]
    rw [← hostRegOffset_bufferWord] at hlt ha
    have hrd := runPrim_rd_waiting (.inl hidle) (bufferWord src n) hlt ha (t + n)
    rw [hostRegOffset_bufferWord, hword] at hrd
    refine blockOf_runPrim_wr_next hb (show n < bufferSize dst by omega) ?_ (tempValue_cons_self g.temps ?_)
    · rw [hrd]; exact hblock
    · rw [hrd]

theorem blockOf_loadbits {h : HostRun} (hb : h.block.status.busy = false) (b : HostBuffer) (bits : Bits)
    (hlen : bits.length ≤ 32 * bufferSize b) :
    blockOf (runLine (.loadbits b bits) h).block =
      blockOf (withWords b ((bits.length + 31) / 32) (loadWord bits) h.block) :=
  blockOf_storeWords hb b (loadWord bits) (by omega)

theorem blockOf_copy {h : HostRun} (hb : h.block.status.busy = false) (src dst : HostBuffer) (t : Nat) {n : Nat}
    (hsrc : n ≤ bufferSize src) (hdst : n ≤ bufferSize dst) :
    blockOf (runLine (.copy src dst n t) h).block =
      blockOf (withWords dst n (fun i => readOffset h.block (bufferOffset src i)) h.block) :=
  blockOf_copyWords hb src dst t hsrc hdst

/-- What stands in DIN, and that all else is as before, where the first words of DIN were replaced. -/
theorem din_of_withWords {s t : State} {n : Nat} {w : Nat → Word} (h : blockOf t = blockOf (withWords .din n w s)) :
    (∀ i : Fin 32, t.din[i] = if i.val < n then w i.val else s.din[i]) ∧
      blockOf { t with din := s.din } = blockOf s := by
  have hdin : t.din = replaceWords n w s.din := show (blockOf t).din = _ by rw [h]; rfl
  refine ⟨fun i => ?_, ?_⟩
  · simp only [hdin, Fin.getElem_fin, getElem_replaceWords]
  · calc blockOf { t with din := s.din }
      _ = { blockOf t with din := s.din } := rfl
      _ = blockOf s := by rw [h]; simp only [withWords, blockOf]

/-- What stands in GEN, and that all else is as before, where the first words of GEN were replaced. -/
theorem gen_of_withWords {s t : State} {n : Nat} {w : Nat → Word} (h : blockOf t = blockOf (withWords .gen n w s)) :
    (∀ i : Fin 2, t.gen[i] = if i.val < n then w i.val else s.gen[i]) ∧
      blockOf { t with gen := s.gen } = blockOf s := by
  have hgen : t.gen = replaceWords n w s.gen := show (blockOf t).gen = _ by rw [h]; rfl
  refine ⟨fun i => ?_, ?_⟩
  · simp only [hgen, Fin.getElem_fin, getElem_replaceWords]
  · calc blockOf { t with gen := s.gen }
      _ = { blockOf t with gen := s.gen } := rfl
      _ = blockOf s := by rw [h]; simp only [withWords, blockOf]

/-- The words that `LOADBITS` writes are those of `Pack` (R53, R82). -/
theorem getElem_pack_eq_loadWord (bits : Bits) {n : Nat} (i : Fin n) : (pack bits n)[i] = loadWord bits i.val := by
  simp [pack, loadWord]

/-- A buffer whose words are those of `Pack` as far as the bit-string reaches holds the bit-string (R53). -/
theorem bitsOf_of_packed_words {bits : Bits} {n : Nat} (hlen : bits.length ≤ 32 * n) {v : Vector Word n}
    (hwords : ∀ i : Fin n, i.val < (bits.length + 31) / 32 → v[i] = (pack bits n)[i]) :
    bitsOf v bits.length = bits := by
  calc bitsOf v bits.length
    _ = bitsOf (pack bits n) bits.length := by
      refine List.map_congr_left fun k hk => ?_
      have hlt : k < bits.length := List.mem_range.1 hk
      have hword : v[k / 32]'(by omega) = (pack bits n)[k / 32]'(by omega) :=
        hwords ⟨k / 32, by omega⟩ (show k / 32 < (bits.length + 31) / 32 by omega)
      rw [bitAt, bitAt, Vector.getElem?_eq_getElem (by omega), Vector.getElem?_eq_getElem (by omega), hword]
    _ = bits := bitsOf_pack hlen

/-- Settles O54: each line replaces the words it names, by `Pack`'s or by the source's, and nothing else. -/
theorem loadAndCopyStoreTheirBits : Obligations.LoadAndCopyStoreTheirBits := by
  intro h hb
  refine ⟨fun bits hlen => ?_, fun bits hlen => ?_, fun b bits hro hlen => ?_, fun src n t hsrc hn => ?_,
    fun src n t hsrc hn => ?_, fun src dst n t hro hsrc hn => ?_⟩
  · obtain ⟨hwords, hrest⟩ := din_of_withWords (blockOf_loadbits hb .din bits hlen)
    simp only [← getElem_pack_eq_loadWord] at hwords
    exact ⟨bitsOf_of_packed_words hlen fun i hi => by rw [hwords i, if_pos hi], hwords, hrest⟩
  · obtain ⟨hwords, hrest⟩ := gen_of_withWords (blockOf_loadbits hb .gen bits hlen)
    simp only [← getElem_pack_eq_loadWord] at hwords
    exact ⟨bitsOf_of_packed_words hlen fun i hi => by rw [hwords i, if_pos hi], hwords, hrest⟩
  · rw [blockOf_loadbits hb b bits hlen]
    obtain rfl | rfl := hro <;> rfl
  · exact din_of_withWords (blockOf_copy hb src .din t hsrc hn)
  · exact gen_of_withWords (blockOf_copy hb src .gen t hsrc hn)
  · rw [blockOf_copy hb src dst t hsrc hn]
    obtain rfl | rfl := hro <;> rfl

/-! ### ISSUE and WAIT -/

/-- Blocks that differ in the host's fields alone complete alike. -/
theorem blockOf_executed_congr (s : State) {t : State} (h : blockOf t = blockOf s) :
    blockOf (executed t.lcmd t) = blockOf (executed s.lcmd s) := by
  have hlcmd : t.lcmd = s.lcmd := show (blockOf t).lcmd = (blockOf s).lcmd by rw [h]
  rw [hlcmd, ← executed_blockOf, h, executed_blockOf]

theorem status_of_blockOf_eq {s t : State} (h : blockOf t = blockOf s) : t.status = s.status :=
  show (blockOf t).status = (blockOf s).status by rw [h]

/-- What a poll that ends leaves: the block as the completion step leaves it, and its STATUS read last. -/
def Polled (h g : HostRun) (t reads : Nat) (u : State) : Prop :=
  blockOf g.block = blockOf u ∧ g.claims = h.claims ∧ tempValue g t = statusWord u.status ∧
    g.log = h.log ++ List.replicate reads ⟨false, 0x008, 0x00000001#32⟩ ++ [⟨false, 0x008, statusWord u.status⟩]

/-- One read more that finds BUSY alone before the poll goes on. -/
theorem Polled.of_read {h h' g : HostRun} {t reads : Nat} {u u' : State} (hpolled : Polled h' g t reads u')
    (hclaims : h'.claims = h.claims) (hlog : h'.log = h.log ++ [⟨false, 0x008, 0x00000001#32⟩])
    (hu : blockOf u' = blockOf u) : Polled h g t (reads + 1) u := by
  obtain ⟨hblock, hclaims', htemp, hlog'⟩ := hpolled
  rw [status_of_blockOf_eq hu] at htemp hlog'
  refine ⟨hblock.trans hu, hclaims'.trans hclaims, htemp, ?_⟩
  rw [hlog', hlog, List.replicate_succ, List.append_assoc h.log, List.singleton_append]

/-- The read that comes with the latency over finds the command completed. -/
theorem polled_completing {h : HostRun} (hb : h.block.status.busy = true) (hw : h.block.wait = 0) (t : Nat) :
    Polled h (runPrim (.rd (.named .status) t) h) t 0 (executed h.block.lcmd h.block) := by
  obtain ⟨u, hu, hsubmit⟩ := submit_completing hb hw (memRead (Config.base + 0x008))
  have hread : readOffset u 0x008 = statusWord (executed h.block.lcmd h.block).status := by
    rw [← status_of_blockOf_eq hu]
    exact readOffset_offsetOf u .status
  rw [performAccess_memRead u (by decide) (by decide), hread] at hsubmit
  have hrd := runPrim_rd (.named .status) (congrArg State.response hsubmit) t
  rw [hrd]
  refine ⟨(congrArg blockOf hsubmit).trans hu, rfl, tempValue_cons_self h.temps rfl, ?_⟩
  rw [List.replicate_zero, List.append_nil]
  rfl

/-- A poll of a command just issued reads STATUS with BUSY alone as often as the latency says, and then the STATUS that
the command leaves (R82). -/
theorem polled_pollLoop (n : Nat) {h : HostRun} (hw : h.block.wait = n) (hstatus : h.block.status = statusIssued)
    (t : Nat) : Polled h (pollLoop (n + 1) t h) t n (executed h.block.lcmd h.block) := by
  induction n generalizing h with
  | zero =>
    have hpolled := polled_completing (by rw [hstatus]; rfl) hw t
    have ⟨_, _, htemp, _⟩ := hpolled
    have hended : ¬ (tempValue (runPrim (.rd (.named .status) t) h) t).getLsbD 0 = true := by
      rw [htemp, getLsbD_statusWord, if_pos rfl, (executed_done_busy _ _).2]
      decide
    rw [pollLoop, if_neg hended]
    exact hpolled
  | succ n ih =>
    have hread : readOffset h.block 0x008 = 0x00000001#32 := by
      refine (readOffset_offsetOf h.block .status).trans ?_
      rw [readReg, hstatus, statusWord_statusIssued]
    have hrd := runPrim_rd_waiting (.inr (show h.block.wait ≠ 0 by omega)) (.named .status) (by decide) (by decide) t
    simp only [hostRegOffset, offsetOf, hread] at hrd
    have hbusy : (tempValue (runPrim (.rd (.named .status) t) h) t).getLsbD 0 = true := by
      rw [hrd, tempValue_cons_self h.temps rfl]
      decide
    rw [pollLoop, if_pos hbusy, hrd]
    refine Polled.of_read (ih ?_ ?_) rfl rfl (blockOf_executed_congr h.block rfl)
    · exact show h.block.wait - 1 = n by omega
    · exact hstatus

/-- No command sets COLL (R73). -/
theorem outcome_coll (i : Instr) {s : State} (h : s.status.coll = false) : (outcome i s).status.coll = false := by
  by_cases hi : i = .clr
  · rw [hi]; rfl
  · obtain ⟨_, _, _, _, _, hcoll, _⟩ := sameBesideResults_outcome hi s
    rw [hcoll, h]

/-- `ISSUE` on an idle block issues the command's word by a CMD write (R82). -/
theorem runLine_issue {h : HostRun} (hb : h.block.status.busy = false) (i : Instr) :
    runLine (.issue i) h =
      { h with
        block := { issue (encode i) (takeEvent h.block []) with response := some .ack }
        log := h.log ++ [⟨true, 0x004, encode i⟩] } := by
  have hb' : (takeEvent h.block []).status.busy = false := hb
  have hsubmit : submit (memWrite (Config.base + 0x004) (encode i)) h.block =
      { issue (encode i) (takeEvent h.block []) with response := some .ack } := by
    rw [submit_waiting (.inl hb), performAccess_memWrite _ (by decide) (by decide), writeOffset_cmd hb']
  exact congrArg (fun b => ({ h with block := b, log := h.log ++ [⟨true, 0x004, encode i⟩] } : HostRun)) hsubmit

/-- `WAIT` is a poll and two claims on the STATUS read last (R82). -/
theorem runLine_wait (t : Nat) (h : HostRun) :
    runLine (.wait t) h =
      { pollLoop (h.block.wait + 1) t h with
        claims := (pollLoop (h.block.wait + 1) t h).claims &&
          (tempValue (pollLoop (h.block.wait + 1) t h) t).getLsbD 4 == false &&
          (tempValue (pollLoop (h.block.wait + 1) t h) t).getLsbD 1 == true } := rfl

/-- Settles O55: the poll reads BUSY until the latency is over, and the command leaves DONE set and COLL clear. -/
theorem issueThenWaitRunsTheCommand : Obligations.IssueThenWaitRunsTheCommand := by
  intro h i t hb
  refine ⟨_, exec_eq i _, ?_⟩
  rw [runLine_issue hb, runLine_wait]
  generalize hg : ({ h with
    block := { issue (encode i) (takeEvent h.block []) with response := some .ack }
    log := h.log ++ [⟨true, 0x004, encode i⟩] } : HostRun) = g
  have hwait : g.block.wait = Config.latency h.block.draws := by rw [← hg]; rfl
  have hstatus : g.block.status = statusIssued := by rw [← hg]; rfl
  have hblock : blockOf g.block = blockOf (issue (encode i) h.block) := by rw [← hg]; rfl
  have hresult : blockOf (executed g.block.lcmd g.block) = blockOf (outcome i (issue (encode i) h.block)) := by
    rw [blockOf_executed_congr _ hblock, issue_lcmd, executed_of_decode ((decode_eq_ok_iff _ i).2 rfl)]
  obtain ⟨hblock', hclaims, htemp, hlog⟩ := polled_pollLoop _ rfl hstatus t
  rw [status_of_blockOf_eq hresult] at htemp hlog
  refine ⟨hblock'.trans hresult, ?_, ?_⟩
  · have hcoll := outcome_coll i (show (issue (encode i) h.block).status.coll = false from rfl)
    obtain ⟨hdone, _⟩ := outcome_done_busy i (issue (encode i) h.block)
    rw [htemp, hclaims, getLsbD_statusWord, getLsbD_statusWord]
    simp [hcoll, hdone, ← hg]
  · rw [hlog, hwait, ← hg]

end Sys2Proof.Machine
end
